-- ==== Sys2Proof/Word.lean ====
section
/-! DEFINITION. Word.lean: the words of the block's interface and the names of its floating-point
formats. Registers are accessed whole, as 32-bit values (spec/10_state.md R24); buffers hold single
bytes (spec/20_memory.md R50). -/

namespace Sys2Proof

/-- One register value: `RW = 32` (spec/00_scope.md section 4, R24). -/
abbrev Word := BitVec 32

/-- One byte of a buffer (R50). -/
abbrev Byte := BitVec 8

/-- One finite value of the block's floating-point format, as the exact number it stands for
(R11, R95). Software never sees its bits; NaN, infinities and the sign of zero do not arise or are
not observable (R103; log 8). -/
abbrev FmtVal := Rat

/-- The two admitted formats of parameter `FMT` (R11). -/
inductive Fmt where
  | binary32
  | binary64
  deriving DecidableEq, Repr, Inhabited

end Sys2Proof
end

