-- ==== Sys2Proof/Machine/Arith.lean ====
section
/-! DEFINITION. Machine/Arith.lean: the one floating-point arithmetic of the block: formats, correct
rounding, the four operations and the constants (spec/00_scope.md R11, R17;
spec/40_color_converter.md R95 to R100). A value is the exact rational number it stands for
(log 8). -/

namespace Sys2Proof.Machine

/-- Significand bits of a format: 24 for binary32, 53 for binary64 (R95). -/
def precOf : Fmt → Int
  | .binary32 => 24
  | .binary64 => 53

/-- Exponent of the smallest subnormal: every value of the format is an integer multiple of
`2 ^ minExpOf f` (R95, R99). -/
def minExpOf : Fmt → Int
  | .binary32 => -149
  | .binary64 => -1074

/-- `2 ^ e` for an integer `e`. -/
def pow2 : Int → Rat
  | .ofNat k => ((2 ^ k : Nat) : Rat)
  | .negSucc k => 1 / ((2 ^ (k + 1) : Nat) : Rat)

/-- `|x|`. -/
def absRat (x : Rat) : Rat := if x < 0 then -x else x

/-- The integer `k` with `2 ^ k ≤ x < 2 ^ (k + 1)`, for `x > 0`. -/
def ilog2 (x : Rat) : Int :=
  let k : Int := (Nat.log2 x.num.natAbs : Int) - (Nat.log2 x.den : Int)
  if pow2 k ≤ x then k else k - 1

/-- Exponent of the unit in the last place at `x ≠ 0`; never below the smallest subnormal
(gradual underflow, R99). -/
def ulpExp (f : Fmt) (x : Rat) : Int := max (ilog2 (absRat x) - (precOf f - 1)) (minExpOf f)

/-- The integer nearest `q`, ties to even (R96). -/
def roundEven (q : Rat) : Int :=
  let lo := q.floor
  let r := q - (lo : Rat)
  if r < 1 / 2 then lo
  else if 1 / 2 < r then lo + 1
  else if lo % 2 = 0 then lo else lo + 1

/-- The value of the format nearest the real number `x`: round-to-nearest, ties-to-even, one
rounding (R17, R96). The largest exponent is not modelled: no operation of the block overflows
(R103; log 8). -/
def rnd (f : Fmt) (x : Rat) : FmtVal :=
  if x = 0 then 0 else (roundEven (x / pow2 (ulpExp f x)) : Rat) * pow2 (ulpExp f x)

/-- `x` is a value of the format. -/
abbrev IsFmt (f : Fmt) (x : Rat) : Prop := rnd f x = x

/-- `a (+) b` (R17, R96). -/
def addF (f : Fmt) (a b : FmtVal) : FmtVal := rnd f (a + b)

/-- `a (-) b`. -/
def subF (f : Fmt) (a b : FmtVal) : FmtVal := rnd f (a - b)

/-- `a (*) b`. -/
def mulF (f : Fmt) (a b : FmtVal) : FmtVal := rnd f (a * b)

/-- `a (/) b`. The divisor is never zero (R100). -/
def divF (f : Fmt) (a b : FmtVal) : FmtVal := rnd f (a / b)

/-- `u8_to_F(v)`: exact (R98). -/
def u8ToF (v : Byte) : FmtVal := (v.toNat : Rat)

/-- The constants of R97: each decimal literal rounded once to the format. -/
def k255 (f : Fmt) : FmtVal := rnd f 255
/-- `K12_92`. -/
def k12_92 (f : Fmt) : FmtVal := rnd f (1292 / 100)
/-- `K04045`. -/
def k04045 (f : Fmt) : FmtVal := rnd f (4045 / 100000)
/-- `K055`. -/
def k055 (f : Fmt) : FmtVal := rnd f (55 / 1000)
/-- `K1055`. -/
def k1055 (f : Fmt) : FmtVal := rnd f (1055 / 1000)
/-- `K2_4`. -/
def k2_4 (f : Fmt) : FmtVal := rnd f (24 / 10)
/-- `KR`. -/
def kR (f : Fmt) : FmtVal := rnd f (2126 / 10000)
/-- `KG`. -/
def kG (f : Fmt) : FmtVal := rnd f (7152 / 10000)
/-- `KB`. -/
def kB (f : Fmt) : FmtVal := rnd f (722 / 10000)
/-- `K0031308`. -/
def k0031308 (f : Fmt) : FmtVal := rnd f (31308 / 10000000)
/-- `KINV2_4`: one division of constants (R97). -/
def kInv2_4 (f : Fmt) : FmtVal := divF f 1 (k2_4 f)
/-- `K0_5`. -/
def k0_5 (f : Fmt) : FmtVal := rnd f (1 / 2)

/-- The thresholding primitive `thr(L, t)`: strict comparison (spec/42_dither_pointwise.md R140). -/
def thr (lumv t : FmtVal) : FmtVal := if lumv > t then 1 else 0

end Sys2Proof.Machine
end

