-- ==== Sys2Proof/Machine/PowSpec.lean ====
section
/-! DEFINITION. Machine/PowSpec.lean: what may be assumed of the configuration function `POW`, and
nothing else (spec/40_color_converter.md R104, properties P1 to P4), with a function that has all
four, so that the admitted functions are not an empty kind. Comparisons with the real power `x^y` are
made exactly, without real numbers: for a rational exponent `y = a/b` and `u ≥ 0`, `u ≤ x^y` means
`u^b ≤ x^a`. -/

namespace Sys2Proof.Machine

/-- `u` is at most the real number `x^y` (`x > 0`, `y ≥ 0`). -/
def AtMostPow (u x y : Rat) : Prop := u ≤ 0 ∨ u ^ y.den ≤ x ^ y.num.toNat

/-- `u` is at least the real number `x^y` (`x > 0`, `y ≥ 0`). -/
def AtLeastPow (u x y : Rat) : Prop := 0 ≤ u ∧ x ^ y.num.toNat ≤ u ^ y.den

/-- The two kinds of arguments at which the block calls `POW` (R104): in DECODE `y = K2_4` and `x`
in [0.0930, 1]; in ENCODE `y = KINV2_4` and `x` in (K0031308, 1]. -/
def PowArg (f : Fmt) (x y : Rat) : Prop :=
  IsFmt f x ∧ x ≤ 1 ∧
    ((y = k2_4 f ∧ 930 / 10000 ≤ x) ∨ (y = kInv2_4 f ∧ k0031308 f < x))

/-- R104: what a model that does not fix `POW` may assume of it, on the arguments the block calls it
with. -/
structure PowAdmitted (f : Fmt) (pow : Rat → Rat → Rat) : Prop where
  /-- `POW` yields a value of the format (R12). -/
  isFmt : ∀ x y, PowArg f x y → IsFmt f (pow x y)
  /-- P1. -/
  one : ∀ y, y = k2_4 f ∨ y = kInv2_4 f → pow 1 y = 1
  /-- P2. -/
  unit : ∀ x y, PowArg f x y → 0 < pow x y ∧ pow x y ≤ 1
  /-- P3: non-decreasing in `x`. -/
  mono : ∀ x x' y, PowArg f x y → PowArg f x' y → x ≤ x' → pow x y ≤ pow x' y
  /-- P4, faithful: one of the two values of the format that bracket the real `x^y`, the greatest
  one not above it or the least one not below it (both are `x^y` when that is representable). -/
  faithful : ∀ x y, PowArg f x y →
    (AtMostPow (pow x y) x y ∧ ∀ u, IsFmt f u → AtMostPow u x y → u ≤ pow x y) ∨
    (AtLeastPow (pow x y) x y ∧ ∀ u, IsFmt f u → AtLeastPow u x y → pow x y ≤ u)

/-! ### A function with the four properties: the real power rounded down -/

/-- How many units of the smallest subnormal make 1. -/
def unitCount (f : Fmt) : Nat := 2 ^ (-minExpOf f).toNat

/-- The `m`-th multiple of the smallest subnormal is a value of the format and not above `x^y`. -/
abbrev FloorCandidate (f : Fmt) (x y : Rat) (m : Nat) : Prop :=
  IsFmt f ((m : Rat) * pow2 (minExpOf f)) ∧
    ((m : Rat) * pow2 (minExpOf f)) ^ y.den ≤ x ^ y.num.toNat

/-- The greatest value of the format in [0, 1] that is not above the real `x^y`. It can be computed
only in principle; it serves to show that R104's properties hold of some function. -/
def powFloor (f : Fmt) (x y : Rat) : Rat :=
  (Nat.findGreatest (FloorCandidate f x y) (unitCount f) : Rat) * pow2 (minExpOf f)

theorem pow2_eq_zpow (e : Int) : pow2 e = (2 : Rat) ^ e := by
  cases e with
  | ofNat k => simp [pow2]
  | negSucc k => simp [pow2, zpow_negSucc]

theorem pow2_pos (e : Int) : 0 < pow2 e := by
  rw [pow2_eq_zpow]; positivity

theorem unitCount_mul (f : Fmt) : (unitCount f : Rat) * pow2 (minExpOf f) = 1 := by
  cases f <;> decide +kernel

theorem ulpExp_ge (f : Fmt) (x : Rat) : minExpOf f ≤ ulpExp f x := le_max_right _ _

/-- Every value of the format is an integer multiple of the smallest subnormal. -/
theorem isFmt_multiple {f : Fmt} {u : Rat} (h : IsFmt f u) :
    ∃ k : Int, u = (k : Rat) * pow2 (minExpOf f) := by
  by_cases hu : u = 0
  · exact ⟨0, by simp [hu]⟩
  · have h' : (roundEven (u / pow2 (ulpExp f u)) : Rat) * pow2 (ulpExp f u) = u := by
      simpa [IsFmt, rnd, hu] using h
    obtain ⟨d, hd⟩ := Int.le.dest (ulpExp_ge f u)
    refine ⟨roundEven (u / pow2 (ulpExp f u)) * 2 ^ d, ?_⟩
    conv_lhs => rw [← h']
    rw [pow2_eq_zpow, pow2_eq_zpow, ← hd, zpow_add₀ (by norm_num), zpow_natCast]
    push_cast
    ring

theorem candidate_zero (f : Fmt) {x y : Rat} (hx : 0 ≤ x) : FloorCandidate f x y 0 := by
  refine ⟨by simp [IsFmt, rnd], ?_⟩
  simpa [zero_pow y.den_nz] using pow_nonneg hx _

theorem powFloor_spec (f : Fmt) {x y : Rat} (hx : 0 ≤ x) :
    IsFmt f (powFloor f x y) ∧ powFloor f x y ^ y.den ≤ x ^ y.num.toNat :=
  Nat.findGreatest_spec (P := FloorCandidate f x y) (Nat.zero_le _) (candidate_zero f hx)

theorem powFloor_nonneg (f : Fmt) (x y : Rat) : 0 ≤ powFloor f x y :=
  mul_nonneg (Nat.cast_nonneg _) (pow2_pos _).le

theorem powFloor_le_one (f : Fmt) (x y : Rat) : powFloor f x y ≤ 1 := by
  rw [← unitCount_mul f]
  exact mul_le_mul_of_nonneg_right (by exact_mod_cast Nat.findGreatest_le _) (pow2_pos _).le

/-- Every value of the format that is not above `x^y` is at most `powFloor f x y`, for `x ≤ 1`. -/
theorem le_powFloor {f : Fmt} {x y u : Rat} (hx : 0 ≤ x) (hx1 : x ≤ 1) (hu : IsFmt f u)
    (h : AtMostPow u x y) : u ≤ powFloor f x y := by
  rcases le_or_gt u 0 with h0 | h0
  · exact h0.trans (powFloor_nonneg f x y)
  · have hp : u ^ y.den ≤ x ^ y.num.toNat := h.resolve_left (not_le.mpr h0)
    have hu1 : u ≤ 1 := by
      by_contra hc
      have := one_lt_pow₀ (not_le.mp hc) y.den_nz
      exact absurd (hp.trans (pow_le_one₀ hx hx1)) (not_le.mpr this)
    obtain ⟨k, hk⟩ := isFmt_multiple hu
    have hk0 : 0 ≤ k := by
      by_contra hc
      have : (k : Rat) < 0 := by exact_mod_cast not_le.mp hc
      have := mul_neg_of_neg_of_pos this (pow2_pos (minExpOf f))
      linarith
    obtain ⟨m, rfl⟩ := Int.eq_ofNat_of_zero_le hk0
    have hm : u = (m : Rat) * pow2 (minExpOf f) := by simpa using hk
    have hle : m ≤ unitCount f := by
      have : (m : Rat) * pow2 (minExpOf f) ≤ (unitCount f : Rat) * pow2 (minExpOf f) := by
        rw [unitCount_mul, ← hm]; exact hu1
      exact_mod_cast le_of_mul_le_mul_right this (pow2_pos _)
    have hc : FloorCandidate f x y m := ⟨hm ▸ hu, hm ▸ hp⟩
    rw [hm]
    exact mul_le_mul_of_nonneg_right (by exact_mod_cast Nat.le_findGreatest hle hc) (pow2_pos _).le

theorem powArg_bounds {f : Fmt} {x y : Rat} (h : PowArg f x y) :
    (1 / 2) ^ 9 ≤ x ∧ x ≤ 1 ∧ y.num.toNat ≤ 3 * y.den := by
  obtain ⟨-, h1, ⟨rfl, hx⟩ | ⟨rfl, hx⟩⟩ := h
  · refine ⟨le_trans (by norm_num) hx, h1, ?_⟩
    cases f <;> decide +kernel
  · refine ⟨le_trans ?_ hx.le, h1, ?_⟩ <;> cases f <;> decide +kernel

/-- R104's properties hold of the real power rounded down. -/
theorem powFloor_admitted (f : Fmt) : PowAdmitted f (powFloor f) where
  isFmt x y h := (powFloor_spec f (le_trans (by positivity) (powArg_bounds h).1)).1
  one y hy := by
    refine le_antisymm (powFloor_le_one f 1 y) ?_
    refine le_powFloor zero_le_one le_rfl ?_ (Or.inr (by simp))
    cases f <;> decide +kernel
  unit x y h := by
    obtain ⟨hx, hx1, hy⟩ := powArg_bounds h
    have hx0 : (0 : Rat) ≤ x := le_trans (by positivity) hx
    refine ⟨lt_of_lt_of_le (b := (1 / 2 : Rat) ^ 27) (by positivity) ?_, powFloor_le_one f x y⟩
    refine le_powFloor hx0 hx1 (by cases f <;> decide +kernel) (Or.inr ?_)
    calc ((1 / 2 : Rat) ^ 27) ^ y.den = ((1 / 2) ^ 9) ^ (3 * y.den) := by
          rw [← pow_mul, ← pow_mul]; congr 1; ring
      _ ≤ ((1 / 2) ^ 9) ^ y.num.toNat :=
          pow_le_pow_of_le_one (by positivity) (by norm_num) hy
      _ ≤ x ^ y.num.toNat := pow_le_pow_left₀ (by positivity) hx _
  mono x x' y h h' hxx := by
    obtain ⟨hx, -, -⟩ := powArg_bounds h
    obtain ⟨hx', hx1', -⟩ := powArg_bounds h'
    have hx0 : (0 : Rat) ≤ x := le_trans (by positivity) hx
    have hs := powFloor_spec f (y := y) hx0
    exact le_powFloor (hx0.trans hxx) hx1' hs.1
      (Or.inr (hs.2.trans (pow_le_pow_left₀ hx0 hxx _)))
  faithful x y h := by
    obtain ⟨hx, hx1, -⟩ := powArg_bounds h
    have hx0 : (0 : Rat) ≤ x := le_trans (by positivity) hx
    exact Or.inl ⟨Or.inr (powFloor_spec f hx0).2, fun u hu hl => le_powFloor hx0 hx1 hu hl⟩

end Sys2Proof.Machine
end

