-- ==== Sys2Proof/Config.lean ====
section
/-! DEFINITION. Config.lean: what the spec leaves to the implementation and to the outside world
(spec/00_scope.md section 4; spec/92_eei_decisions.md D2, D4, D10, D15;
spec/93_implementation_defined.md). `Config.chip` has no body: nothing can be proved of it but the
properties that `Config` lists, which are those of the spec's rules. -/

namespace Sys2Proof

/-- Largest value of `MAXPIX` the 32-bit NBYTES admits (R14). -/
def maxPixLimit : Nat := 2 ^ 30 - 1

/-- Entries of the threshold-matrix store, `MATCAP` (R13). -/
def matCap : Nat := 256

/-- The latched operands of a command (spec/10_state.md R27): `W`, `NB`, `M`, and the pixel count
`N` and the height `H` that CHECK computes. -/
structure Latched where
  w : Word
  nb : Word
  m : BitVec 3
  n : BitVec 30
  h : BitVec 30
  deriving DecidableEq, Repr, Inhabited

/-- The parameters and free values as plain functions, without the properties `Config` adds. The
operations of the machine take one as an argument, so that they can be evaluated at a chosen one. -/
structure Params where
  /-- Parameter `FMT` (R11, R95). -/
  fmt : Fmt
  /-- Parameter `MAXPIX` (R14). -/
  maxPix : Nat
  /-- Parameter `POW` (R12, R104). -/
  pow : Rat → Rat → Rat
  /-- The random source's answer to the k-th question `rng_ok` (R149). -/
  rngOk : Nat → Bool
  /-- The k-th draw of the random source (R150). -/
  draw : Nat → Rat
  /-- Unspecified content of IN at an address nothing has written since reset number `era`
  (R43, R219). -/
  freeIn : (era address : Nat) → Byte
  /-- Unspecified content of OUT, likewise (R43, R44). -/
  freeOut : (era address : Nat) → Byte
  /-- Unspecified content of LUM (R43, R196, R233). -/
  freeLum : (era index : Nat) → Rat
  /-- Unspecified content of ALPHA (R43, R196, R233). -/
  freeAlpha : (era index : Nat) → Byte
  /-- Unspecified content of MAT (R43, R196, R233). -/
  freeMat : (era index : Nat) → Byte
  /-- What a host read of OUT returns while BUSY (R68). -/
  busyOut : (k address : Nat) → Byte
  /-- What a command leaves in OUT where its result is unspecified: everywhere if the host wrote a
  buffer while BUSY (R67), and in the pixels that depend on bytes of IN nothing has written (R219). -/
  freeResult : (k address : Nat) → Byte
  /-- The latched operands after a failure (R196). -/
  freeLatched : Nat → Latched

/-- An admitted configuration: parameters with the properties the spec gives them. The values
after `:=` say only that such a configuration exists; no property of `Config.chip` follows from
them (log 24). -/
structure Config extends Params where
  fmt := .binary64
  maxPix := maxPixLimit
  pow := Machine.powFloor fmt
  rngOk := fun _ => true
  draw := fun _ => 0
  freeIn := fun _ _ => 0
  freeOut := fun _ _ => 0
  freeLum := fun _ _ => 0
  freeAlpha := fun _ _ => 0
  freeMat := fun _ _ => 0
  busyOut := fun _ _ => 0
  freeResult := fun _ _ => 0
  freeLatched := fun _ => default
  /-- `MAXPIX` is a positive integer (R14, D10). -/
  maxPix_pos : 0 < maxPix := by decide
  /-- `MAXPIX <= 2^30 - 1` (R14, D10). -/
  maxPix_le : maxPix ≤ maxPixLimit := by decide
  /-- P1 to P4 of R104. -/
  pow_admitted : Machine.PowAdmitted fmt pow := by exact Machine.powFloor_admitted _
  /-- A draw is not negative (R150). -/
  draw_nonneg : ∀ k, 0 ≤ draw k := by exact fun _ => le_rfl
  /-- A draw is below 1 (R150). -/
  draw_lt_one : ∀ k, draw k < 1 := by exact fun _ => zero_lt_one
  /-- A draw is a value of the format (R150). -/
  draw_isFmt : ∀ k, Machine.IsFmt fmt (draw k) := by exact fun _ => rfl
  /-- An unspecified entry of LUM still is a value of the format (R33). -/
  freeLum_isFmt : ∀ era i, Machine.IsFmt fmt (freeLum era i) := by exact fun _ _ => rfl
  deriving Inhabited

/-- The configuration of the machine: any admitted one. -/
opaque Config.chip : Config

/-- The parameters of the machine. -/
def chip : Params := Config.chip.toParams

end Sys2Proof
end

