-- ==== Sys2Proof/Machine/State.lean ====
section
/-! DEFINITION. Machine/State.lean: the block's state (spec/10_state.md), the host's moves that wait
to be made (log 3), the reasons a step can stop, and the state after reset (R42, R43). -/

namespace Sys2Proof.Machine

/-- A byte buffer: the listed cells in strictly rising order of address (`Memory.wf`, Ops.lean). A
byte nothing has written since reset is not listed; what it reads as is unspecified, a free value of
Config (R43, R219; log 9). -/
abbrev Memory := List Host.Cell

/-- `PHASE` (R30). -/
inductive Phase where
  | idle
  | check
  | decode
  | build
  | kernel
  | encode
  deriving DecidableEq, Repr

/-- One move of the host (spec/20_memory.md R66 to R69, spec/60_exceptions.md R202,
spec/70_reset_and_hazards.md R218, R226). -/
inductive HostMove where
  /-- Writes a register, by number (R24). -/
  | writeReg (reg : Nat) (value : Word)
  /-- Reads a register, by number (R24). -/
  | readReg (reg : Nat)
  /-- Writes a byte of IN. -/
  | writeIn (address : Nat) (value : Byte)
  /-- Reads a byte of IN. -/
  | readIn (address : Nat)
  /-- Writes a byte of OUT. -/
  | writeOut (address : Nat) (value : Byte)
  /-- Reads a byte of OUT. -/
  | readOut (address : Nat)
  /-- Asserts the reset input (R42, R44). -/
  | reset
  /-- Polls STATUS until BUSY = 0: a started command runs to its end (R218). -/
  | wait
  /-- Lets the sequencer take one step of R31 and no more (log 19). -/
  | tick
  deriving DecidableEq, Repr

/-- The state of the block, with the model's own fields at the end. -/
structure State where
  /-- `WIDTH`, register 3 (R21). -/
  width : Word
  /-- `NBYTES`, register 4 (R22). -/
  nbytes : Word
  /-- `METHOD[2:0]`, register 5 (R23). -/
  method : BitVec 3
  /-- `STATUS.BUSY` (R26). -/
  busy : Bool
  /-- `STATUS.DONE` (R26). -/
  done : Bool
  /-- `STATUS.ERR` (R26). -/
  err : Bool
  /-- `ERRCODE[1:0]`, register 2 (R28). -/
  errcode : BitVec 2
  /-- The latched operands `W, NB, M, N, H` (R27). -/
  lat : Latched
  /-- `PHASE` of the sequencer (R30). -/
  phase : Phase
  /-- `IDX` of the sequencer (R30). -/
  idx : BitVec 30
  /-- `LUM`, by pixel index; an entry that is not listed is unspecified (R33, R43). -/
  lum : List (Nat × FmtVal)
  /-- `ALPHA`, by pixel index (R33, R35). -/
  alpha : Memory
  /-- `MAT`, by matrix index (R36). -/
  mat : Memory
  /-- The buffer `IN` (R37). -/
  inBuf : Memory
  /-- The buffer `OUT` (R37). -/
  outBuf : Memory
  /-- Model's own: what the host's last read returned (log 18). -/
  readData : Word
  /-- Model's own: the host's moves still to come (log 3). -/
  host : List HostMove
  /-- Model's own: how many times the random source was asked `rng_ok` (R149; log 7). -/
  rngAsks : Nat
  /-- Model's own: how many draws were taken (R150; log 7). -/
  draws : Nat
  /-- Model's own: the host wrote a buffer while this command ran (R67; log 13, 15). -/
  disturbed : Bool
  /-- Model's own: which unspecified contents IN and OUT have (R43, R44; log 9). -/
  bufEra : Nat
  /-- Model's own: which unspecified contents LUM, ALPHA and MAT have (R43, R196, R233; log 10). -/
  storeEra : Nat
  /-- Model's own: argument of the next free value (log 12, 13, 14, 26). -/
  fresh : Nat
  deriving DecidableEq, Repr

/-- Why a step faults. -/
inductive Fault where
  /-- Raised by a host move that reads or writes a buffer at an address at or above `4*MAXPIX`,
  which does not exist (R50). Safe: the spec gives such an access no effect. -/
  | addressOutsideBuffer
  deriving DecidableEq, Repr

/-- Why a step is refused. -/
inductive Refusal where
  /-- Raised by an arm of `exec` whose instruction has no meaning yet; no arm does. Safe. -/
  | notModelled (mnemonic : String)
  deriving DecidableEq, Repr

/-- The state after reset (R42, R43, R216). The latched operands and `IDX` are unspecified there;
their zeros are the model's (DESIGN CHOICE, unsafe, log 11). Nothing is listed in the stores and
buffers. -/
def State.reset : State where
  width := 0
  nbytes := 0
  method := 0
  busy := false
  done := false
  err := false
  errcode := 0
  lat := { w := 0, nb := 0, m := 0, n := 0, h := 0 }
  phase := .idle
  idx := 0
  lum := []
  alpha := []
  mat := []
  inBuf := []
  outBuf := []
  readData := 0
  host := []
  rngAsks := 0
  draws := 0
  disturbed := false
  bufEra := 0
  storeEra := 0
  fresh := 0

end Sys2Proof.Machine
end

