-- ==== Sys2Proof/Machine/Flags.lean ====
section
/-! DEFINITION. Machine/Flags.lean: STATUS and ERRCODE, the block's only condition codes
(spec/10_state.md R26 to R29; spec/60_exceptions.md R190, R196). -/

namespace Sys2Proof.Machine

/-- The two failures (R190). -/
inductive Failure where
  | randomSourceUnavailable
  | invalidImageShape
  deriving DecidableEq, Repr

/-- The code of a failure in ERRCODE (R190). -/
def failureCode : Failure → BitVec 2
  | .randomSourceUnavailable => 1
  | .invalidImageShape => 2

/-- What the host reads in STATUS: BUSY bit 0, DONE bit 1, ERR bit 2, all other bits 0 (R26). -/
def statusWord (s : State) : Word :=
  (BitVec.ofBool s.busy).setWidth 32 ||| ((BitVec.ofBool s.done).setWidth 32 <<< 1) |||
    ((BitVec.ofBool s.err).setWidth 32 <<< 2)

/-- The flags at an accepted START (R27). -/
def flagsAtStart (s : State) : State :=
  { s with busy := true, done := false, err := false, errcode := 0 }

/-- The flags at a successful end (R29). -/
def flagsAtSuccess (s : State) : State := { s with busy := false, done := true }

/-- The flags at a failure; DONE stays as it is, which is 0 (R196). -/
def flagsAtFailure (f : Failure) (s : State) : State :=
  { s with errcode := failureCode f, err := true, busy := false }

end Sys2Proof.Machine
end

