-- ==== Sys2Proof/Machine/Operands.lean ====
section
/-! DEFINITION. Machine/Operands.lean: operand assembly (spec/30_encoding.md R80, R81;
spec/60_exceptions.md R193; spec/44_integer_flow_access.md R184 to R188): all integers are unsigned
and exact. -/

namespace Sys2Proof.Machine

/-- The tests of CHECK in the order of R193; `4 * W` does not wrap. `none`: the shape is good. -/
def checkShape (p : Params) (w nb : Nat) : Option Failure :=
  if w = 0 then some .invalidImageShape
  else if nb = 0 then some .invalidImageShape
  else if nb % (4 * w) ≠ 0 then some .invalidImageShape
  else if nb / 4 > p.maxPix then some .invalidImageShape
  else none

/-- The pixel count `N = NB / 4` (R80). -/
def pixelCount (nb : Nat) : Nat := nb / 4

/-- The height `H = N / W` (R80). -/
def heightOf (w nb : Nat) : Nat := pixelCount nb / w

/-- The column `x = i % W` of a pixel (R33, R52). -/
def colOf (w i : Nat) : Nat := i % w

/-- The row `y = i / W` of a pixel (R33, R52). -/
def rowOf (w i : Nat) : Nat := i / w

/-- The byte address of channel `k` (0 R, 1 G, 2 B, 3 A) of pixel `i` (R52, R188). -/
def byteAddr (i k : Nat) : Nat := 4 * i + k

/-- Is this the tag of a Bayer command (R31, R81)? -/
def isBayer (m : BitVec 3) : Bool := decide (3 ≤ m.toNat) && decide (m.toNat ≤ 6)

/-- The order `n = tag - 3` of a Bayer command (R81). -/
def bayerOrder (m : BitVec 3) : Nat := m.toNat - 3

/-- The matrix side `m = 2^(n+1)` (R81). -/
def sideOf (n : Nat) : Nat := 2 ^ (n + 1)

/-- The normalising divisor `D = 4^(n+1)` (R81). -/
def divisorOf (n : Nat) : Nat := 4 ^ (n + 1)

end Sys2Proof.Machine
end

