-- ==== Sys2Proof/Machine/Ops.lean ====
section
/-! DEFINITION. Machine/Ops.lean: the named operations over the stores, the buffers and the
sequencer: cells, loops, the start of a command, its successful end, and TAKING A FAILURE (`raise`).
There is no return from a failure (spec/60_exceptions.md R197): the next START clears it
(`beginCommand`). -/

namespace Sys2Proof.Machine

/-! ### Cells -/

/-- The listed value at an address or index, if any. -/
def readCell {α : Type} : List (Nat × α) → Nat → Option α
  | [], _ => none
  | (b, v) :: rest, a => if a = b then some v else readCell rest a

/-- Writes one cell and keeps the list in rising order. -/
def writeCell {α : Type} : List (Nat × α) → Nat → α → List (Nat × α)
  | [], a, v => [(a, v)]
  | (b, u) :: rest, a, v =>
    if a < b then (a, v) :: (b, u) :: rest
    else if a = b then (a, v) :: rest
    else (b, u) :: writeCell rest a v

/-- Canonical form: strictly rising keys. An unlisted key has no written value, so no listed entry
can equal what an unlisted one holds. -/
abbrev CellsWf {α : Type} (l : List (Nat × α)) : Prop := (l.map Prod.fst).Pairwise (· < ·)

/-- Canonical form of a buffer. -/
abbrev Memory.wf (m : Memory) : Prop := CellsWf m

/-- Every listed key is below a bound. -/
abbrev CellsBelow {α : Type} (bound : Nat) (l : List (Nat × α)) : Prop := ∀ c ∈ l, c.1 < bound

/-- `MemRead(IN, a)` (R18, R57); an unwritten byte has an unspecified value (R219). -/
def inByte (p : Params) (s : State) (a : Nat) : Byte :=
  (readCell s.inBuf a).getD (p.freeIn s.bufEra a)

/-- The byte of OUT at `a`; an unwritten one is unspecified (R43). -/
def outByte (p : Params) (s : State) (a : Nat) : Byte :=
  (readCell s.outBuf a).getD (p.freeOut s.bufEra a)

/-- `LUM[i]` (R33). -/
def lumAt (p : Params) (s : State) (i : Nat) : FmtVal :=
  (readCell s.lum i).getD (p.freeLum s.storeEra i)

/-- `ALPHA[i]` (R33). -/
def alphaAt (p : Params) (s : State) (i : Nat) : Byte :=
  (readCell s.alpha i).getD (p.freeAlpha s.storeEra i)

/-- `MAT[k]` (R36). -/
def matAt (p : Params) (s : State) (k : Nat) : Byte :=
  (readCell s.mat k).getD (p.freeMat s.storeEra k)

/-- `MemWrite(OUT, a, v)` (R18, R58). -/
def setOut (a : Nat) (v : Byte) (s : State) : State := { s with outBuf := writeCell s.outBuf a v }

/-- The host's write of a byte of IN. -/
def setIn (a : Nat) (v : Byte) (s : State) : State := { s with inBuf := writeCell s.inBuf a v }

/-- `LUM[i] <- v`. -/
def setLum (i : Nat) (v : FmtVal) (s : State) : State := { s with lum := writeCell s.lum i v }

/-- `ALPHA[i] <- v`. -/
def setAlpha (i : Nat) (v : Byte) (s : State) : State := { s with alpha := writeCell s.alpha i v }

/-- `MAT[k] <- v`. -/
def setMat (k : Nat) (v : Byte) (s : State) : State := { s with mat := writeCell s.mat k v }

/-! ### Loops -/

/-- `for i in start .. start+count-1` in increasing order (R18; log 25). -/
def forRange (f : Nat → State → State) : (count start : Nat) → State → State
  | 0, _, s => s
  | count + 1, start, s => forRange f count (start + 1) (f start s)

/-- The pixel loop of a phase, `IDX` running to `N-1` (R31); it starts at `IDX`, which is 0 when
the phase is entered. -/
def pixelLoop (f : Nat → State → State) (s : State) : State :=
  forRange f (s.lat.n.toNat - s.idx.toNat) s.idx.toNat s

/-! ### The sequencer -/

/-- Enters a phase; `IDX` "is set to 0 on entering a phase" (R31; for IDLE and CHECK log 11). -/
def enterPhase (ph : Phase) (s : State) : State := { s with phase := ph, idx := 0 }

/-- The accepted START: the operands are latched, the flags set, CHECK entered (R27). -/
def beginCommand (tag : BitVec 3) (w nb : Word) (s : State) : State :=
  enterPhase .check (flagsAtStart { s with lat := { s.lat with m := tag, w := w, nb := nb } })

/-- The contents of LUM, ALPHA and MAT become unspecified: after a failure (R196), after any command
(R233, U20) and at reset (R43). -/
def forgetStores (s : State) : State :=
  { s with lum := [], alpha := [], mat := [], storeEra := s.storeEra + 1 }

/-- TAKING A FAILURE: `raise F` (R196). OUT, IN and the operand registers are left alone; the latched
operands become unspecified, so they take a free value (log 12). Where the host wrote OUT or IN while
the failing command was BUSY, its bytes stay and no byte of OUT is freed: for OUT, where the spec is
silent (R68, R226), the model's choice (DESIGN CHOICE, unsafe, log 15); for IN DEDUCED from R196 and
R58 (log 13). -/
def raise (p : Params) (f : Failure) (s : State) : State :=
  enterPhase .idle (flagsAtFailure f
    { forgetStores s with
      lat := p.freeLatched s.fresh, fresh := s.fresh + 1, disturbed := false })

/-! ### Results that are unspecified -/

/-- Has every color byte of pixel `i` of IN been written since reset (R219)? -/
def colorWritten (s : State) (i : Nat) : Bool :=
  (readCell s.inBuf (byteAddr i 0)).isSome && (readCell s.inBuf (byteAddr i 1)).isSome &&
    (readCell s.inBuf (byteAddr i 2)).isSome

/-- Do the bytes of IN that pixel `i` of the result depends on have a value: its own color, and under
FloydSteinberg that of every earlier pixel too (R219)? An alpha byte "influences only its own output
alpha", which is copied from it (log 26). -/
def inputWritten (s : State) (i : Nat) : Bool :=
  if s.lat.m = 0b111#3 then (List.range (i + 1)).all (colorWritten s) else colorWritten s i

/-- Is pixel `i` of the result what the command computes? It is unspecified if the host wrote a buffer
while BUSY (R67) or if it depends on bytes of IN nothing has written (R219, U22). -/
def resultSpecified (s : State) (i : Nat) : Bool := !s.disturbed && inputWritten s i

/-- The four bytes of pixel `i` of OUT become any value, whatever was computed (R67, R219). -/
def freePixel (p : Params) (k i : Nat) (s : State) : State :=
  setOut (byteAddr i 3) (p.freeResult k (byteAddr i 3))
    (setOut (byteAddr i 2) (p.freeResult k (byteAddr i 2))
      (setOut (byteAddr i 1) (p.freeResult k (byteAddr i 1))
        (setOut (byteAddr i 0) (p.freeResult k (byteAddr i 0)) s)))

/-- `s` with every pixel of the result that is unspecified made any value. -/
def settleResult (p : Params) (s : State) : State :=
  { forRange (fun i t => if resultSpecified s i then t else freePixel p s.fresh i t)
      s.lat.n.toNat 0 s with
    fresh := s.fresh + 1 }

/-- The successful end of a command (R29). -/
def endSuccess (p : Params) (s : State) : State :=
  enterPhase .idle (flagsAtSuccess { forgetStores (settleResult p s) with disturbed := false })

/-- A passed CHECK: `N` and `H` are computed and DECODE is entered (R193, R31). -/
def passCheck (s : State) : State :=
  enterPhase .decode
    { s with
      lat := { s.lat with
        n := BitVec.ofNat 30 (pixelCount s.lat.nb.toNat)
        h := BitVec.ofNat 30 (heightOf s.lat.w.toNat s.lat.nb.toNat) } }

/-- CHECK on the latched operands (R193): a failure, or the rest of the command. -/
def runCheck (p : Params) (rest : State → State) (s : State) : State :=
  match checkShape p s.lat.w.toNat s.lat.nb.toNat with
  | some f => raise p f s
  | none => rest (passCheck s)

end Sys2Proof.Machine
end

