-- ==== Sys2Proof/Machine/ColorConverter.lean ====
section
/-! DEFINITION. Machine/ColorConverter.lean: the Luminance converter: its functions on one pixel and
the phases DECODE and ENCODE (spec/40_color_converter.md R104 to R113). -/

namespace Sys2Proof.Machine

/-- Channel linearisation `lin(v)` (R106). -/
def lin (p : Params) (v : Byte) : FmtVal :=
  let c := divF p.fmt (u8ToF v) (k255 p.fmt)
  if c < k04045 p.fmt then divF p.fmt c (k12_92 p.fmt)
  else p.pow (divF p.fmt (addF p.fmt c (k055 p.fmt)) (k1055 p.fmt)) (k2_4 p.fmt)

/-- Luminance `lum(R, G, B)`, evaluated left to right (R107). -/
def lumOf (p : Params) (r g b : Byte) : FmtVal :=
  addF p.fmt
    (addF p.fmt (mulF p.fmt (kR p.fmt) (lin p r)) (mulF p.fmt (kG p.fmt) (lin p g)))
    (mulF p.fmt (kB p.fmt) (lin p b))

/-- The clamp of ENCODE (R110). -/
def clamp01 (x : FmtVal) : FmtVal := if x < 0 then 0 else if x > 1 then 1 else x

/-- Forward gamma `gam(c)` (R111). -/
def gam (p : Params) (c : FmtVal) : FmtVal :=
  if c ≤ k0031308 p.fmt then mulF p.fmt (k12_92 p.fmt) c
  else subF p.fmt (mulF p.fmt (k1055 p.fmt) (p.pow c (kInv2_4 p.fmt))) (k055 p.fmt)

/-- The integer nearest `t`, ties away from zero (R113). -/
def roundAway (t : Rat) : Int := if 0 ≤ t then (t + 1 / 2).floor else -((-t + 1 / 2).floor)

/-- Saturation to 0..255 (R113). -/
def saturate8 (q : Int) : Byte := BitVec.ofNat 8 (if q < 0 then 0 else if q > 255 then 255 else q.toNat)

/-- 8-bit conversion `to_u8(s)` (R113). -/
def toU8 (p : Params) (s : FmtVal) : Byte := saturate8 (roundAway (mulF p.fmt s (k255 p.fmt)))

/-- The gray byte ENCODE emits for a luminance: `to_u8(gam(clamp01(L)))` (R112). -/
def grayByte (p : Params) (x : FmtVal) : Byte := toU8 p (gam p (clamp01 x))

/-- One pixel of DECODE (R105): four byte reads of IN, LUM[i] and ALPHA[i] written. -/
def decodePixel (p : Params) (i : Nat) (s : State) : State :=
  setAlpha i (inByte p s (byteAddr i 3))
    (setLum i
      (lumOf p (inByte p s (byteAddr i 0)) (inByte p s (byteAddr i 1)) (inByte p s (byteAddr i 2))) s)

/-- The DECODE phase (R105). -/
def decodePhase (p : Params) (s : State) : State := pixelLoop (decodePixel p) s

/-- One pixel of ENCODE (R112): the gray byte to R, G and B, then the alpha byte. -/
def encodePixel (p : Params) (i : Nat) (s : State) : State :=
  let g := grayByte p (lumAt p s i)
  setOut (byteAddr i 3) (alphaAt p s i)
    (setOut (byteAddr i 2) g (setOut (byteAddr i 1) g (setOut (byteAddr i 0) g s)))

/-- The ENCODE phase and the successful end of the command (R112, R29). -/
def encodeAndEnd (p : Params) (s : State) : State := endSuccess p (pixelLoop (encodePixel p) s)

end Sys2Proof.Machine
end

