-- ==== Sys2Proof/Machine/Bayer.lean ====
section
/-! DEFINITION. Machine/Bayer.lean: the Bayer matrix generator, BUILD(n), and the threshold lookup of
the Bayer kernels (spec/41_bayer_matrix.md R125 to R128; spec/42_dither_pointwise.md R155, R160,
R161). -/

namespace Sys2Proof.Machine

/-- The base pattern `off(a, b)`, which is `B_0[a][b]` (R126, R127). -/
def cornerOffset (a b : Nat) : Nat :=
  if a = 0 then (if b = 0 then 0 else 2) else (if b = 0 then 3 else 1)

/-- `B_n[r][c]` by the recursion of R127: `h = 2^n` is the side of the matrix before. -/
def bayerEntry : (n r c : Nat) → Nat
  | 0, r, c => cornerOffset r c
  | n + 1, r, c =>
    let h := sideOf n
    4 * bayerEntry n (r % h) (c % h) + cornerOffset (r / h) (c / h)

/-- One entry of BUILD(n), at flat index `k = r*m + c` (R128). -/
def buildEntry (n k : Nat) (s : State) : State :=
  setMat k (BitVec.ofNat 8 (bayerEntry n (k / sideOf n) (k % sideOf n))) s

/-- The BUILD phase (R128): rows, then columns, which is increasing flat index. -/
def buildPhase (n : Nat) (s : State) : State :=
  forRange (buildEntry n) (sideOf n * sideOf n - s.idx.toNat) s.idx.toNat s

/-- The matrix index of a pixel: its column selects the matrix ROW, its row the matrix COLUMN
(R155, R160). -/
def matIndex (n w i : Nat) : Nat :=
  colOf w i % sideOf n * sideOf n + rowOf w i % sideOf n

/-- The normalised threshold at pixel `i` (R155, R161). -/
def bayerThreshold (p : Params) (n i : Nat) (s : State) : FmtVal :=
  divF p.fmt (u8ToF (matAt p s (matIndex n s.lat.w.toNat i))) (divisorOf n : Rat)

/-- One pixel of `KERNEL_Bayer(n)` (R155). -/
def bayerPixel (p : Params) (n i : Nat) (s : State) : State :=
  setLum i (thr (lumAt p s i) (bayerThreshold p n i s)) s

end Sys2Proof.Machine
end

