-- ==== Sys2Proof/Machine/Pointwise.lean ====
section
/-! DEFINITION. Machine/Pointwise.lean: the seven commands whose kernel treats each pixel by itself
(spec/42_dither_pointwise.md). Every command is CHECK, DECODE, for Bayer BUILD, its KERNEL, ENCODE
(R143, R78). A command is one step (D21; log 1); it never faults (R73, R192). -/

namespace Sys2Proof.Machine

/-! ### The kernels on one pixel -/

/-- `KERNEL_Grayscale`: nothing (R141). -/
def grayscalePixel (_i : Nat) (s : State) : State := s

/-- `KERNEL_Quantise` (R142). -/
def quantisePixel (p : Params) (i : Nat) (s : State) : State :=
  setLum i (thr (lumAt p s i) (k0_5 p.fmt)) s

/-- `draw()` has been taken once more (R150). -/
def countDraw (s : State) : State := { s with draws := s.draws + 1 }

/-- `KERNEL_WhiteNoise` on one pixel: one fresh draw (R148, R150). -/
def whiteNoisePixel (p : Params) (i : Nat) (s : State) : State :=
  countDraw (setLum i (thr (lumAt p s i) (p.draw s.draws)) s)

/-- `rng_ok` has been asked once more (R149). -/
def countAsk (s : State) : State := { s with rngAsks := s.rngAsks + 1 }

/-- The start of the WhiteNoise kernel: the random source is asked once; the command fails or goes
on (R148, R149, R194). Every draw is answered (log 21). -/
def askRandomSource (p : Params) (rest : State → State) (s : State) : State :=
  if p.rngOk s.rngAsks then rest (countAsk s)
  else raise p .randomSourceUnavailable (countAsk s)

/-! ### The commands -/

/-- The KERNEL phase with a given kernel, then ENCODE (R31). -/
def kernelAndEncode (p : Params) (kernel : Nat → State → State) (s : State) : State :=
  encodeAndEnd p (enterPhase .encode (pixelLoop kernel s))

/-- `Grayscale` (R141). -/
def grayscaleCommand (p : Params) (w nb : Word) (s : State) : State :=
  runCheck p
    (fun s₁ => kernelAndEncode p grayscalePixel (enterPhase .kernel (decodePhase p s₁)))
    (beginCommand 0b000#3 w nb s)

/-- `Quantise` (R142). -/
def quantiseCommand (p : Params) (w nb : Word) (s : State) : State :=
  runCheck p
    (fun s₁ => kernelAndEncode p (quantisePixel p) (enterPhase .kernel (decodePhase p s₁)))
    (beginCommand 0b001#3 w nb s)

/-- `WhiteNoise` (R148). -/
def whiteNoiseCommand (p : Params) (w nb : Word) (s : State) : State :=
  runCheck p
    (fun s₁ => askRandomSource p (kernelAndEncode p (whiteNoisePixel p))
      (enterPhase .kernel (decodePhase p s₁)))
    (beginCommand 0b010#3 w nb s)

/-- A Bayer command of order `n` with tag `tag` (R155 to R159). -/
def bayerCommand (p : Params) (tag : BitVec 3) (n : Nat) (w nb : Word) (s : State) : State :=
  runCheck p
    (fun s₁ => kernelAndEncode p (bayerPixel p n)
      (enterPhase .kernel (buildPhase n (enterPhase .build (decodePhase p s₁)))))
    (beginCommand tag w nb s)

/-! ### The meanings -/

/-- Meaning of `Grayscale` (R141). -/
def execGrayscale (width nbytes : Nat) (s : State) : Host.Outcome State Fault Refusal :=
  .next (grayscaleCommand chip (BitVec.ofNat 32 width) (BitVec.ofNat 32 nbytes) s)

/-- Meaning of `Quantise` (R142). -/
def execQuantise (width nbytes : Nat) (s : State) : Host.Outcome State Fault Refusal :=
  .next (quantiseCommand chip (BitVec.ofNat 32 width) (BitVec.ofNat 32 nbytes) s)

/-- Meaning of `WhiteNoise` (R148). -/
def execWhiteNoise (width nbytes : Nat) (s : State) : Host.Outcome State Fault Refusal :=
  .next (whiteNoiseCommand chip (BitVec.ofNat 32 width) (BitVec.ofNat 32 nbytes) s)

/-- Meaning of `Bayer0` (R156): order 0, 2 by 2, divisor 4. -/
def execBayer0 (width nbytes : Nat) (s : State) : Host.Outcome State Fault Refusal :=
  .next (bayerCommand chip 0b011#3 0 (BitVec.ofNat 32 width) (BitVec.ofNat 32 nbytes) s)

/-- Meaning of `Bayer1` (R157): order 1, 4 by 4, divisor 16. -/
def execBayer1 (width nbytes : Nat) (s : State) : Host.Outcome State Fault Refusal :=
  .next (bayerCommand chip 0b100#3 1 (BitVec.ofNat 32 width) (BitVec.ofNat 32 nbytes) s)

/-- Meaning of `Bayer2` (R158): order 2, 8 by 8, divisor 64. -/
def execBayer2 (width nbytes : Nat) (s : State) : Host.Outcome State Fault Refusal :=
  .next (bayerCommand chip 0b101#3 2 (BitVec.ofNat 32 width) (BitVec.ofNat 32 nbytes) s)

/-- Meaning of `Bayer3` (R159): order 3, 16 by 16, divisor 256. -/
def execBayer3 (width nbytes : Nat) (s : State) : Host.Outcome State Fault Refusal :=
  .next (bayerCommand chip 0b110#3 3 (BitVec.ofNat 32 width) (BitVec.ofNat 32 nbytes) s)

end Sys2Proof.Machine
end

