-- ==== Sys2Proof/Machine/FloydSteinberg.lean ====
section
/-! DEFINITION. Machine/FloydSteinberg.lean: the error-diffusion command
(spec/43_floyd_steinberg.md). -/

namespace Sys2Proof.Machine

/-- The share `wt(e, k) = (e (*) k) (/) 16` of an error (R173). -/
def wt (p : Params) (e : FmtVal) (k : Nat) : FmtVal :=
  divF p.fmt (mulF p.fmt e (k : Rat)) 16

/-- `LUM[j] <- LUM[j] (+) v` if the condition holds; a share whose condition fails is dropped
(R171, R175). -/
def addLumIf (p : Params) (cond : Bool) (j : Nat) (v : FmtVal) (s : State) : State :=
  if cond then setLum j (addF p.fmt (lumAt p s j) v) s else s

/-- The four shares of error `e` at pixel `i`, in the source's order: right, bottom-left, bottom,
bottom-right (R171, R174). -/
def diffuse (p : Params) (i : Nat) (e : FmtVal) (s : State) : State :=
  let w := s.lat.w.toNat
  let x := colOf w i
  let right : Bool := decide (x + 1 < w)
  let left : Bool := decide (0 < x)
  let below : Bool := decide (rowOf w i + 1 < s.lat.h.toNat)
  addLumIf p (right && below) (i + w + 1) (wt p e 1)
    (addLumIf p below (i + w) (wt p e 5)
      (addLumIf p (left && below) (i + w - 1) (wt p e 3)
        (addLumIf p right (i + 1) (wt p e 7) s)))

/-- One step of `KERNEL_FloydSteinberg` (R171). -/
def floydSteinbergPixel (p : Params) (i : Nat) (s : State) : State :=
  let old := lumAt p s i
  let new := thr old (k0_5 p.fmt)
  diffuse p i (subF p.fmt old new) (setLum i new s)

/-- `FloydSteinberg` (R171). -/
def floydSteinbergCommand (p : Params) (w nb : Word) (s : State) : State :=
  runCheck p
    (fun s₁ => kernelAndEncode p (floydSteinbergPixel p) (enterPhase .kernel (decodePhase p s₁)))
    (beginCommand 0b111#3 w nb s)

/-- Meaning of `FloydSteinberg` (R171). -/
def execFloydSteinberg (width nbytes : Nat) (s : State) : Host.Outcome State Fault Refusal :=
  .next (floydSteinbergCommand chip (BitVec.ofNat 32 width) (BitVec.ofNat 32 nbytes) s)

end Sys2Proof.Machine
end

