-- ==== Sys2Proof/Syntax.lean ====
section
/-! DEFINITION. Syntax.lean: the eight commands of spec/opcode_table.json, one constructor per row
(spec/00_scope.md R3, spec/30_encoding.md R78). -/

namespace Sys2Proof

/-- A command: its method and the two operands every command has, the width in pixels per row and
the number of bytes of image (R75, R76). Both are unsigned integers (R82); that they fit their
32-bit registers is `Instr.wellFormed` (log 20). The image itself is the content of IN. -/
inductive Instr where
  | grayscale (width nbytes : Nat)
  | quantise (width nbytes : Nat)
  | whiteNoise (width nbytes : Nat)
  | bayer0 (width nbytes : Nat)
  | bayer1 (width nbytes : Nat)
  | bayer2 (width nbytes : Nat)
  | bayer3 (width nbytes : Nat)
  | floydSteinberg (width nbytes : Nat)
  deriving DecidableEq, Repr

/-- The operand `width` of the format XFORM (R75). -/
def Instr.width : Instr → Nat
  | .grayscale width _ => width
  | .quantise width _ => width
  | .whiteNoise width _ => width
  | .bayer0 width _ => width
  | .bayer1 width _ => width
  | .bayer2 width _ => width
  | .bayer3 width _ => width
  | .floydSteinberg width _ => width

/-- The operand `nbytes` of the format XFORM (R75). -/
def Instr.nbytes : Instr → Nat
  | .grayscale _ nbytes => nbytes
  | .quantise _ nbytes => nbytes
  | .whiteNoise _ nbytes => nbytes
  | .bayer0 _ nbytes => nbytes
  | .bayer1 _ nbytes => nbytes
  | .bayer2 _ nbytes => nbytes
  | .bayer3 _ nbytes => nbytes
  | .floydSteinberg _ nbytes => nbytes

end Sys2Proof
end

