-- ==== Sys2Proof/Machine/Dispatch.lean ====
section
/-! DEFINITION. Machine/Dispatch.lean: one arm per command, each a direct call of its meaning. -/

namespace Sys2Proof.Machine

def exec (i : Instr) (s : State) : Host.Outcome State Fault Refusal :=
  match i with
  | .grayscale width nbytes => Sys2Proof.Machine.execGrayscale width nbytes s
  | .quantise width nbytes => Sys2Proof.Machine.execQuantise width nbytes s
  | .whiteNoise width nbytes => Sys2Proof.Machine.execWhiteNoise width nbytes s
  | .bayer0 width nbytes => Sys2Proof.Machine.execBayer0 width nbytes s
  | .bayer1 width nbytes => Sys2Proof.Machine.execBayer1 width nbytes s
  | .bayer2 width nbytes => Sys2Proof.Machine.execBayer2 width nbytes s
  | .bayer3 width nbytes => Sys2Proof.Machine.execBayer3 width nbytes s
  | .floydSteinberg width nbytes => Sys2Proof.Machine.execFloydSteinberg width nbytes s

end Sys2Proof.Machine
end

