-- ==== Sys2Proof/WellFormed.lean ====
section
/-! DEFINITION. WellFormed.lean: which commands the format XFORM can express. A shape that CHECK
rejects is NOT ill-formed: it is representable and fails when it runs (spec/30_encoding.md R84). -/

namespace Sys2Proof

/-- `width` fits the 32-bit register WIDTH (R75, R21). -/
def Instr.widthFits (i : Instr) : Bool := decide (i.width < 2 ^ 32)

/-- `nbytes` fits the 32-bit register NBYTES (R75, R22). -/
def Instr.nbytesFits (i : Instr) : Bool := decide (i.nbytes < 2 ^ 32)

/-- A command that the operand registers can hold. -/
def Instr.wellFormed (i : Instr) : Bool := i.widthFits && i.nbytesFits

end Sys2Proof
end

