-- ==== Sys2Proof/Decode.lean ====
section
/-! DEFINITION. Decode.lean: from the contents of the operand registers to a command and back
(spec/30_encoding.md R75, R78, R83, R90). A command is not a word in a memory (R75): its "words" are
METHOD, WIDTH and NBYTES, in this order (log 17). -/

namespace Sys2Proof

/-- The method tag of a METHOD value: bits [2:0]; bits [31:3] are ignored (R23, R75). -/
def tagOf (method : Word) : BitVec 3 := method.extractLsb' 0 3

/-- The command a tag selects (R78), total on the 3-bit field (R83). The last case is tag 7, the
only one left. -/
def commandOf (tag : BitVec 3) (width nbytes : Nat) : Instr :=
  if tag = 0b000#3 then .grayscale width nbytes
  else if tag = 0b001#3 then .quantise width nbytes
  else if tag = 0b010#3 then .whiteNoise width nbytes
  else if tag = 0b011#3 then .bayer0 width nbytes
  else if tag = 0b100#3 then .bayer1 width nbytes
  else if tag = 0b101#3 then .bayer2 width nbytes
  else if tag = 0b110#3 then .bayer3 width nbytes
  else .floydSteinberg width nbytes

/-- `decode_command(METHOD, WIDTH, NBYTES)` of R90, total on every register content. -/
def decodeCommand (method width nbytes : Word) : Instr :=
  commandOf (tagOf method) width.toNat nbytes.toNat

/-- Why a list of words is not a command: one of the three operand registers is missing. -/
inductive DecodeError where
  | missingMethod
  | missingWidth
  | missingNbytes
  deriving DecidableEq, Repr

/-- The decoder on a list of words: the command and the words that are left. -/
def decode : List Word → Except DecodeError (Instr × List Word)
  | [] => .error .missingMethod
  | [_] => .error .missingWidth
  | [_, _] => .error .missingNbytes
  | method :: width :: nbytes :: rest => .ok (decodeCommand method width nbytes, rest)

/-- The tag of a command (R78). -/
def Instr.tag : Instr → BitVec 3
  | .grayscale _ _ => 0b000#3
  | .quantise _ _ => 0b001#3
  | .whiteNoise _ _ => 0b010#3
  | .bayer0 _ _ => 0b011#3
  | .bayer1 _ _ => 0b100#3
  | .bayer2 _ _ => 0b101#3
  | .bayer3 _ _ => 0b110#3
  | .floydSteinberg _ _ => 0b111#3

/-- The words of a well-formed command: what the host writes to METHOD, WIDTH and NBYTES (R75), the
reserved bits METHOD[31:3] zero. -/
def encode (i : Instr) : List Word :=
  [i.tag.setWidth 32, BitVec.ofNat 32 i.width, BitVec.ofNat 32 i.nbytes]

/-- The three words of a command whose bits are `w`, numbered as spec/opcode_table.json numbers
them: METHOD is bits 31..0, WIDTH bits 63..32, NBYTES bits 95..64; bits at `nbits` and above are
zero. -/
def tableWords (nbits w : Nat) : List Word :=
  let v := w % 2 ^ nbits
  [BitVec.ofNat 32 v, BitVec.ofNat 32 (v / 2 ^ 32), BitVec.ofNat 32 (v / 2 ^ 64)]

/-- The command the decoder reads from a table row's bits. -/
def decodeTableWord (nbits w : Nat) : Option Instr :=
  match decode (tableWords nbits w) with
  | .ok (i, _) => some i
  | .error _ => none

end Sys2Proof
end

