-- ==== Sys2Proof/Machine/Sequencer.lean ====
section
/-! DEFINITION. Machine/Sequencer.lean: the sequencer's transitions one pixel at a time
(spec/10_state.md R30, R31), and a command run to its end from any point of them. -/

namespace Sys2Proof.Machine

/-- The kernel a latched tag selects (R78, R90). -/
def kernelPixel (p : Params) (m : BitVec 3) : Nat → State → State :=
  if m = 0b000#3 then grayscalePixel
  else if m = 0b001#3 then quantisePixel p
  else if m = 0b010#3 then whiteNoisePixel p
  else if m = 0b111#3 then floydSteinbergPixel p
  else bayerPixel p (bayerOrder m)

/-- Runs `step` at the start of the KERNEL phase: for WhiteNoise the random source is asked first,
once, at `IDX = 0` (R148, R149). -/
def startKernel (p : Params) (rest : State → State) (s : State) : State :=
  if s.lat.m = 0b010#3 ∧ s.idx = 0 then askRandomSource p rest s else rest s

/-- Moves `IDX` on, or leaves the phase after its last index (R31). -/
def advance (limit : Nat) (leave : State → State) (s : State) : State :=
  if s.idx.toNat + 1 < limit then { s with idx := s.idx + 1 } else leave s

/-- Where DECODE leads: BUILD for a Bayer command, else KERNEL (R31). -/
def leaveDecode (s : State) : State :=
  enterPhase (if isBayer s.lat.m then .build else .kernel) s

/-- One transition of the sequencer (R31); in IDLE nothing happens. -/
def seqStep (p : Params) (s : State) : State :=
  match s.phase with
  | .idle => s
  | .check => runCheck p id s
  | .decode => advance s.lat.n.toNat leaveDecode (decodePixel p s.idx.toNat s)
  | .build =>
    let n := bayerOrder s.lat.m
    advance (sideOf n * sideOf n) (enterPhase .kernel) (buildEntry n s.idx.toNat s)
  | .kernel =>
    startKernel p
      (fun s₁ => advance s₁.lat.n.toNat (enterPhase .encode)
        (kernelPixel p s₁.lat.m s₁.idx.toNat s₁)) s
  | .encode => advance s.lat.n.toNat (endSuccess p) (encodePixel p s.idx.toNat s)

/-- The command from KERNEL on. -/
def resumeKernel (p : Params) (s : State) : State :=
  startKernel p (fun s₁ => kernelAndEncode p (kernelPixel p s₁.lat.m) s₁) s

/-- The command from BUILD on. -/
def resumeBuild (p : Params) (s : State) : State :=
  resumeKernel p (enterPhase .kernel (buildPhase (bayerOrder s.lat.m) s))

/-- The command from DECODE on. -/
def resumeDecode (p : Params) (s : State) : State :=
  let s₁ := leaveDecode (decodePhase p s)
  if isBayer s.lat.m then resumeBuild p s₁ else resumeKernel p s₁

/-- Runs the command in progress to its end, from wherever the sequencer stands; in IDLE there is
none. -/
def resume (p : Params) (s : State) : State :=
  match s.phase with
  | .idle => s
  | .check => runCheck p (resumeDecode p) s
  | .decode => resumeDecode p s
  | .build => resumeBuild p s
  | .kernel => resumeKernel p s
  | .encode => encodeAndEnd p s

/-- The words of the started command: the operand registers as START latched them (R27, R75). -/
def fetchWords (s : State) : List Word := [s.lat.m.setWidth 32, s.lat.w, s.lat.nb]

/-- The started command (R90). -/
def fetch (s : State) : Instr := decodeCommand (s.lat.m.setWidth 32) s.lat.w s.lat.nb

end Sys2Proof.Machine
end

