-- ==== Sys2Proof/Machine/HostPort.lean ====
section
/-! DEFINITION. Machine/HostPort.lean: what the host's moves do: register accesses
(spec/10_state.md R21 to R28), buffer accesses (spec/20_memory.md R50, R66 to R69) and the reset
input (R42 to R44). -/

namespace Sys2Proof.Machine

/-- What a read of a register returns, by number (R24): CTRL reads 0 (R25), numbers 6 and above
read 0. -/
def readRegister (s : State) (reg : Nat) : Word :=
  match reg with
  | 1 => statusWord s
  | 2 => s.errcode.setWidth 32
  | 3 => s.width
  | 4 => s.nbytes
  | 5 => s.method.setWidth 32
  | _ => 0

/-- An accepted START latches the operand registers (R27). -/
def hostStart (s : State) : State := beginCommand s.method s.width s.nbytes s

/-- A write of CTRL: bit 0 set starts a command unless BUSY; else nothing (R25). -/
def writeCtrl (v : Word) (s : State) : State :=
  if v.getLsbD 0 && !s.busy then hostStart s else s

/-- A write of a register, by number (R24): STATUS, ERRCODE and numbers 6 and above ignore it
(R26, R28, R85); METHOD takes bits [2:0] (R23). -/
def writeRegister (reg : Nat) (v : Word) (s : State) : State :=
  match reg with
  | 0 => writeCtrl v s
  | 3 => { s with width := v }
  | 4 => { s with nbytes := v }
  | 5 => { s with method := tagOf v }
  | _ => s

/-- The data a read returns to the host (log 18). -/
def returnData (v : Word) (s : State) : State := { s with readData := v }

/-- While a command runs, a host write to a buffer makes its result unspecified (R67; for OUT
log 15). -/
def noteDisturbance (s : State) : State := { s with disturbed := s.disturbed || s.busy }

/-- A host read of OUT: any byte while BUSY (R68). -/
def readOutByte (p : Params) (a : Nat) (s : State) : State :=
  if s.busy then
    returnData ((p.busyOut s.fresh a).setWidth 32) { s with fresh := s.fresh + 1 }
  else returnData ((outByte p s a).setWidth 32) s

/-- The reset input (R42 to R44, R215): registers and flags to 0, sequencer to IDLE, every store and
buffer unspecified again; a running command is abandoned. The host's own moves and the random
source's counters are not the block's (log 22). -/
def resetBlock (s : State) : State :=
  { State.reset with
    host := s.host
    readData := s.readData
    rngAsks := s.rngAsks
    draws := s.draws
    bufEra := s.bufEra + 1
    storeEra := s.storeEra + 1
    fresh := s.fresh }

/-- An access to a buffer address, which must exist: `0 .. 4*MAXPIX - 1` (R50; log 16). -/
def atAddress (p : Params) (a : Nat) (s : State) : Host.Outcome State Fault Refusal :=
  if a < 4 * p.maxPix then .next s else .fault .addressOutsideBuffer

/-- One move of the host. `wait` itself changes nothing: `step` lets the block run. -/
def hostMove (p : Params) (m : HostMove) (s : State) : Host.Outcome State Fault Refusal :=
  match m with
  | .writeReg reg v => .next (writeRegister reg v s)
  | .readReg reg => .next (returnData (readRegister s reg) s)
  | .writeIn a v => atAddress p a (noteDisturbance (setIn a v s))
  | .readIn a => atAddress p a (returnData ((inByte p s a).setWidth 32) s)
  | .writeOut a v => atAddress p a (noteDisturbance (setOut a v s))
  | .readOut a => atAddress p a (readOutByte p a s)
  | .reset => .next (resetBlock s)
  | .wait => .next s
  | .tick => .next (seqStep p s)

end Sys2Proof.Machine
end

