-- ==== Sys2Proof/Machine/Step.lean ====
section
/-! DEFINITION. Machine/Step.lean: one step of the whole machine. The host's next move, if it has
one, comes first; otherwise, or when the host waits, the block runs (log 3). -/

namespace Sys2Proof.Machine

/-- The block runs: a command that START has just latched is fetched and executed whole; one that
`tick` has already advanced runs on to its end; with none started nothing happens (R69; log 23). -/
def blockRun (s : State) : Host.Outcome State Fault Refusal :=
  match s.phase with
  | .check => exec (fetch s) s
  | _ => .next (resume chip s)

/-- One step. -/
def step (s : State) : Host.Outcome State Fault Refusal :=
  match s.host with
  | [] => blockRun s
  | .wait :: rest => blockRun { s with host := rest }
  | m :: rest => hostMove chip m { s with host := rest }

/-- `s` with the command of a table row written to the operand registers and its START accepted, and
no move of the host pending, so that the next step runs it (log 2). -/
def State.withFetchWord (s : State) (nbits w : Nat) : State :=
  let word (k : Nat) : Word := (tableWords nbits w).getD k 0
  { hostStart { s with method := tagOf (word 0), width := word 1, nbytes := word 2 } with
    host := [] }

end Sys2Proof.Machine
end

