-- ==== Sys2Proof/Safety.lean ====
section
/-! DEFINITION. Safety.lean: the terms in which statements speak of a run: a good shape, how a
command ends, what it leaves alone, and the invariant of the block's state. -/

namespace Sys2Proof.Machine

/-- A well-formed shape that the hardware holds (spec/20_memory.md R54, spec/00_scope.md R14):
`W >= 1`, `NB >= 4*W`, `NB % (4*W) = 0`, `NB/4 <= MAXPIX`, both operands in 32 bits. -/
def GoodShape (p : Params) (w nb : Nat) : Prop :=
  w < 2 ^ 32 ∧ nb < 2 ^ 32 ∧ 1 ≤ w ∧ 4 * w ≤ nb ∧ nb % (4 * w) = 0 ∧ nb / 4 ≤ p.maxPix

/-- Pixel `i` of OUT holds the color bytes `g, g, g` and the alpha byte `a` (R52). -/
def OutPixelIs (t : State) (i : Nat) (g a : Byte) : Prop :=
  readCell t.outBuf (byteAddr i 0) = some g ∧ readCell t.outBuf (byteAddr i 1) = some g ∧
    readCell t.outBuf (byteAddr i 2) = some g ∧ readCell t.outBuf (byteAddr i 3) = some a

/-- The luminance DECODE gives pixel `i` of IN (R105, R107). -/
def pixelLum (p : Params) (s : State) (i : Nat) : FmtVal :=
  lumOf p (inByte p s (byteAddr i 0)) (inByte p s (byteAddr i 1)) (inByte p s (byteAddr i 2))

/-- The alpha byte of pixel `i` of IN. -/
def pixelAlpha (p : Params) (s : State) (i : Nat) : Byte := inByte p s (byteAddr i 3)

/-- The color bytes R, G and B of pixel `i` of IN have all been written since reset, so that they have
a value (R43, R219). -/
def ColorWritten (s : State) (i : Nat) : Prop :=
  ∀ c, c < 3 → ∃ v, readCell s.inBuf (byteAddr i c) = some v

/-- Pixel `k` of the result of command `i` depends only on color bytes of IN that have a value: its own
and, under FloydSteinberg, those of every earlier pixel (R219; alpha log 26). -/
def InputWritten (i : Instr) (s : State) (k : Nat) : Prop :=
  if i.tag = 0b111#3 then ∀ j, j ≤ k → ColorWritten s j else ColorWritten s k

/-- The color byte of a binary luminance: white if it exceeds its threshold (R140, R114). -/
def blackOrWhite (white : Prop) [Decidable white] : Byte := if white then 255 else 0

/-- Bit `j` of `v`, as 0 or 1 (R129). -/
def bitOf (j v : Nat) : Nat := v / 2 ^ j % 2

/-- `off(a, b) = 2 * (a xor b) + a` on bits (R129). -/
def closedOffset (a b : Nat) : Nat := 2 * ((a + b) % 2) + a

/-- The closed form of `B_n[r][c]` (R129). -/
def bayerClosed (n r c : Nat) : Nat :=
  ((List.range (n + 1)).map fun j => 4 ^ (n - j) * closedOffset (bitOf j r) (bitOf j c)).sum

/-- What pixel `i` holds when the error diffusion visits it: its luminance `d` from DECODE and the
shares of the errors `e` of the earlier steps, added in step order, absent terms skipped
(spec/43_floyd_steinberg.md R176). -/
def receivedLum (p : Params) (w : Nat) (d : FmtVal) (e : Nat → FmtVal) (i : Nat) : FmtVal :=
  let x := colOf w i
  let y := rowOf w i
  let l₁ := if 0 < x ∧ 0 < y then addF p.fmt d (wt p (e (i - w - 1)) 1) else d
  let l₂ := if 0 < y then addF p.fmt l₁ (wt p (e (i - w)) 5) else l₁
  let l₃ := if x + 1 < w ∧ 0 < y then addF p.fmt l₂ (wt p (e (i - w + 1)) 3) else l₂
  if 0 < x then addF p.fmt l₃ (wt p (e (i - 1)) 7) else l₃

/-- A pixel of IN is pure black or pure white; its alpha may be anything (R179, R151). -/
def PureBlackOrWhite (p : Params) (s : State) (i : Nat) : Prop :=
  (inByte p s (byteAddr i 0) = 0 ∧ inByte p s (byteAddr i 1) = 0 ∧ inByte p s (byteAddr i 2) = 0) ∨
    (inByte p s (byteAddr i 0) = 255 ∧ inByte p s (byteAddr i 1) = 255 ∧
      inByte p s (byteAddr i 2) = 255)

/-- A command has ended successfully (R29, R26): DONE alone is set, ERRCODE is 0, the sequencer is
in IDLE. -/
def EndsDone (t : State) : Prop :=
  t.busy = false ∧ t.done = true ∧ t.err = false ∧ t.errcode = 0 ∧ t.phase = .idle

/-- A command has ended with failure `f` (R196): ERR alone is set, ERRCODE says why, the sequencer
is in IDLE. -/
def EndsWithFailure (f : Failure) (t : State) : Prop :=
  t.busy = false ∧ t.done = false ∧ t.err = true ∧ t.errcode = failureCode f ∧ t.phase = .idle

/-- What no command touches: the operand registers, IN, the host's pending moves and its last read
data, and the unspecified contents of the buffers (R57, R143, R196). -/
def CommandFrame (s t : State) : Prop :=
  t.width = s.width ∧ t.nbytes = s.nbytes ∧ t.method = s.method ∧ t.inBuf = s.inBuf ∧
    t.readData = s.readData ∧ t.host = s.host ∧ t.bufEra = s.bufEra

/-- The random source has been asked nothing. -/
def RandomSourceUntouched (s t : State) : Prop := t.rngAsks = s.rngAsks ∧ t.draws = s.draws

/-- The operands a successful command has latched (R27, R193). -/
def HasLatched (t : State) (tag : BitVec 3) (w nb : Nat) : Prop :=
  t.lat.m = tag ∧ t.lat.w.toNat = w ∧ t.lat.nb.toNat = nb ∧ t.lat.n.toNat = nb / 4 ∧
    t.lat.h.toNat = nb / 4 / w

/-- Every byte of OUT at `nb` and above reads as before (R58). -/
def OutKeptFrom (nb : Nat) (s t : State) : Prop :=
  ∀ a, nb ≤ a → readCell t.outBuf a = readCell s.outBuf a

/-! ### The invariant -/

/-- STATUS and ERRCODE (R26, R28, R196): at most one flag, ERR exactly when ERRCODE is not 0, the
code 3 never. -/
def FlagsOk (s : State) : Prop :=
  (s.busy = true → s.done = false ∧ s.err = false) ∧ (s.done = true → s.err = false) ∧
    (s.err = true ↔ s.errcode ≠ 0) ∧ s.errcode ≠ 3

/-- What holds of the latched operands after a passed CHECK (R193). -/
def LatchedOk (p : Params) (l : Latched) : Prop :=
  1 ≤ l.w.toNat ∧ l.nb.toNat = 4 * l.n.toNat ∧ l.n.toNat = l.w.toNat * l.h.toNat ∧
    1 ≤ l.n.toNat ∧ l.n.toNat ≤ p.maxPix

/-- `IDX` is in the range of its phase, and the operands are those of a passed CHECK after it
(R31). -/
def SequencerOk (p : Params) (s : State) : Prop :=
  match s.phase with
  | .idle => s.idx = 0
  | .check => s.idx = 0
  | .decode => LatchedOk p s.lat ∧ s.idx.toNat < s.lat.n.toNat
  | .build => LatchedOk p s.lat ∧ isBayer s.lat.m = true ∧
      s.idx.toNat < sideOf (bayerOrder s.lat.m) * sideOf (bayerOrder s.lat.m)
  | .kernel => LatchedOk p s.lat ∧ s.idx.toNat < s.lat.n.toNat
  | .encode => LatchedOk p s.lat ∧ s.idx.toNat < s.lat.n.toNat

/-- The stores and buffers are in canonical form and hold only what exists (R33, R36, R50, R73). -/
def CellsOk (p : Params) (s : State) : Prop :=
  (CellsWf s.lum ∧ CellsBelow p.maxPix s.lum) ∧ (Memory.wf s.alpha ∧ CellsBelow p.maxPix s.alpha) ∧
    (Memory.wf s.mat ∧ CellsBelow matCap s.mat) ∧
    (Memory.wf s.inBuf ∧ CellsBelow (4 * p.maxPix) s.inBuf) ∧
    (Memory.wf s.outBuf ∧ CellsBelow (4 * p.maxPix) s.outBuf)

/-- The invariant of the block's state. -/
def Inv (p : Params) (s : State) : Prop :=
  FlagsOk s ∧ (s.busy = true ↔ s.phase ≠ .idle) ∧ (s.busy = false → s.disturbed = false) ∧
    SequencerOk p s ∧ CellsOk p s

/-- Every listed entry of LUM is a value of the format (R33, R95). -/
def LumIsFmt (p : Params) (s : State) : Prop := ∀ c ∈ s.lum, IsFmt p.fmt c.2

end Sys2Proof.Machine
end

