-- ==== Sys2Proof/Certificates/Slice0/Obligations.lean ====
section
/-! DEFINITION. Certificates/Slice0/Obligations.lean: the statements for the provers. Each docstring
names the rules of spec/ it rests on; where the spec marks such a rule as derived or as a decision,
the statement's basis is "derived". The configuration is `chip`, any admitted one. -/

open Sys2Proof Sys2Proof.Machine

/-! ### Encoding and decoding -/

/-- Decoding the words of a well-formed command gives the command back, whatever follows them
(spec/30_encoding.md R75, R78, R90). -/
def Obligations.DecodeInvertsEncode : Prop :=
  ∀ (i : Instr) (rest : List Word), i.wellFormed = true → decode (encode i ++ rest) = .ok (i, rest)

/-- Encoding what was decoded gives the registers back with the reserved bits METHOD[31:3] cleared:
they are ignored (R23, R75, R83). -/
def Obligations.EncodeOfDecodedClearsReservedBits : Prop :=
  ∀ method width nbytes : Word,
    encode (decodeCommand method width nbytes) = [method &&& 7, width, nbytes]

/-- A decoded command is well-formed and carries the tag METHOD[2:0] and the two operand registers
unchanged (R82, R83, R90). -/
def Obligations.DecodedCommandCarriesItsRegisters : Prop :=
  ∀ method width nbytes : Word,
    (decodeCommand method width nbytes).wellFormed = true ∧
      (decodeCommand method width nbytes).tag.toNat = method.toNat % 8 ∧
      (decodeCommand method width nbytes).width = width.toNat ∧
      (decodeCommand method width nbytes).nbytes = nbytes.toNat

/-- The words of spec/opcode_table.json, written out, decode to their commands: the eight tags, a
METHOD word with reserved bits set, and a command with operand words (R78, R90). That a command is laid
out as words at all (METHOD, then WIDTH in bits 63 to 32 and NBYTES in bits 95 to 64), and that a table
row's operand words are 0, is the model's choice (log 17, log 2): R75 says that a command is not a word
in a memory. -/
def Obligations.TableWordsDecodeToTheirCommands : Prop :=
  decodeTableWord 32 0b00000000000000000000000000000000 = some (.grayscale 0 0) ∧
    decodeTableWord 32 0b00000000000000000000000000000001 = some (.quantise 0 0) ∧
    decodeTableWord 32 0b00000000000000000000000000000010 = some (.whiteNoise 0 0) ∧
    decodeTableWord 32 0b00000000000000000000000000000011 = some (.bayer0 0 0) ∧
    decodeTableWord 32 0b00000000000000000000000000000100 = some (.bayer1 0 0) ∧
    decodeTableWord 32 0b00000000000000000000000000000101 = some (.bayer2 0 0) ∧
    decodeTableWord 32 0b00000000000000000000000000000110 = some (.bayer3 0 0) ∧
    decodeTableWord 32 0b00000000000000000000000000000111 = some (.floydSteinberg 0 0) ∧
    decodeTableWord 32 0b11111111111111111111111111111100 = some (.bayer1 0 0) ∧
    decodeTableWord 96 (7 + 2 * 2 ^ 32 + 16 * 2 ^ 64) = some (.floydSteinberg 2 16)

/-- A step runs the decoded command: when START has latched a command (PHASE is CHECK) and the host
makes no move or waits, one step is `exec` of the command that the latched words decode to; in any
other phase such a step runs the command in progress to its end (`resume`, of which
`SequencerStepKeepsTheEnd` and `CommandIsItsSequencerRun` speak); at the host's move `tick` a step is
one transition of the sequencer. The only thing a step adds is that the move is taken off the host's
list (R27, R31, R75, D21). One command in one step, the list of host moves and `tick` are the model's
(log 1, 3, 19). -/
def Obligations.StepRunsTheFetchedCommand : Prop :=
  (∀ (s : State) (i : Instr) (left : List Word) (rest : List HostMove),
    s.phase = .check → decode (fetchWords s) = .ok (i, left) → i.wellFormed = true →
      (s.host = [] → step s = exec i s) ∧
        (s.host = .wait :: rest → step s = exec i { s with host := rest })) ∧
  (∀ (s : State) (rest : List HostMove), s.phase ≠ .check →
      (s.host = [] → step s = .next (resume chip s)) ∧
        (s.host = .wait :: rest → step s = .next (resume chip { s with host := rest }))) ∧
  (∀ (s : State) (rest : List HostMove), s.host = .tick :: rest →
      step s = .next (seqStep chip { s with host := rest }))

/-! ### What each command does -/

/-- `Grayscale` on a good shape ends with DONE; every pixel of OUT is the encoded luminance of the
pixel of IN in R, G and B and its alpha, wherever the color bytes of that pixel have been written;
nothing else that is not private to a command changes, and no byte of OUT at `nbytes` or above (R141,
R105, R112, R109, R58; for other pixels R219, `UnwrittenInputMakesItsPixelAnyValue`). -/
def Obligations.GrayscaleEmitsEncodedLuminance : Prop :=
  ∀ (width nbytes : Nat) (s : State), GoodShape chip width nbytes → s.disturbed = false →
    ∃ t, exec (.grayscale width nbytes) s = .next t ∧ EndsDone t ∧
      HasLatched t 0b000#3 width nbytes ∧ CommandFrame s t ∧ RandomSourceUntouched s t ∧
      (∀ i, i < nbytes / 4 → ColorWritten s i →
        OutPixelIs t i (grayByte chip (pixelLum chip s i)) (pixelAlpha chip s i)) ∧
      OutKeptFrom nbytes s t

/-- `Quantise` on a good shape ends with DONE; a pixel is white exactly when its luminance exceeds
1/2, else black; alpha and everything else as before (R142, R140, R114, R58; pixels whose color was
never written: R219). -/
def Obligations.QuantiseThresholdsAtHalf : Prop :=
  ∀ (width nbytes : Nat) (s : State), GoodShape chip width nbytes → s.disturbed = false →
    ∃ t, exec (.quantise width nbytes) s = .next t ∧ EndsDone t ∧
      HasLatched t 0b001#3 width nbytes ∧ CommandFrame s t ∧ RandomSourceUntouched s t ∧
      (∀ i, i < nbytes / 4 → ColorWritten s i →
        OutPixelIs t i (blackOrWhite (pixelLum chip s i > 1 / 2)) (pixelAlpha chip s i)) ∧
      OutKeptFrom nbytes s t

/-- `WhiteNoise` on a good shape asks the random source once. If it initialises, the command ends
with DONE, takes exactly N draws, and pixel `i` is white exactly when its luminance exceeds the i-th
of them. If it does not, the command fails with RandomSourceUnavailable, takes no draw and leaves OUT
alone (R148, R149, R150, R194, R229; pixels whose color was never written: R219). -/
def Obligations.WhiteNoiseThresholdsAgainstDraws : Prop :=
  ∀ (width nbytes : Nat) (s : State), GoodShape chip width nbytes → s.disturbed = false →
    ∃ t, exec (.whiteNoise width nbytes) s = .next t ∧ CommandFrame s t ∧
      t.rngAsks = s.rngAsks + 1 ∧
      (chip.rngOk s.rngAsks = true →
        EndsDone t ∧ HasLatched t 0b010#3 width nbytes ∧ t.draws = s.draws + nbytes / 4 ∧
        (∀ i, i < nbytes / 4 → ColorWritten s i →
          OutPixelIs t i (blackOrWhite (pixelLum chip s i > chip.draw (s.draws + i)))
            (pixelAlpha chip s i)) ∧
        OutKeptFrom nbytes s t) ∧
      (chip.rngOk s.rngAsks = false →
        EndsWithFailure .randomSourceUnavailable t ∧ t.draws = s.draws ∧ t.outBuf = s.outBuf)

/-- The four Bayer commands on a good shape: pixel `i` at column `x` and row `y` is white exactly when
its luminance exceeds `B_n[x % m][y % m] / 4^(n+1)` (its COLUMN selects the matrix row), with `B_n` by
its closed form (R155 to R161, R129; pixels whose color was never written: R219). -/
def Obligations.BayerCommandsThresholdAgainstMatrix : Prop :=
  ∀ (width nbytes : Nat) (s : State), GoodShape chip width nbytes → s.disturbed = false →
    ∀ c ∈ [(Instr.bayer0 width nbytes, 0b011#3, 0), (Instr.bayer1 width nbytes, 0b100#3, 1),
      (Instr.bayer2 width nbytes, 0b101#3, 2), (Instr.bayer3 width nbytes, 0b110#3, 3)],
      ∃ t, exec c.1 s = .next t ∧ EndsDone t ∧
        HasLatched t c.2.1 width nbytes ∧ CommandFrame s t ∧ RandomSourceUntouched s t ∧
        (∀ i, i < nbytes / 4 → ColorWritten s i →
          OutPixelIs t i
            (blackOrWhite (pixelLum chip s i >
              (bayerClosed c.2.2 (i % width % 2 ^ (c.2.2 + 1)) (i / width % 2 ^ (c.2.2 + 1)) : Rat) /
                4 ^ (c.2.2 + 1)))
            (pixelAlpha chip s i)) ∧
        OutKeptFrom nbytes s t

/-- `FloydSteinberg` on a good shape, in place, gives what R176 says of each pixel in isolation: there
are values `old i` and errors `e i` with `old i` the DECODE value plus the shares of at most four
earlier errors, in step order, `e i = old i (-) new i`, and the pixel is white exactly when
`old i > 1/2`, as long as the color of every pixel up to it has been written (R171, R173, R176, R181;
for other pixels R219). -/
def Obligations.FloydSteinbergFollowsTheRecurrence : Prop :=
  ∀ (width nbytes : Nat) (s : State), GoodShape chip width nbytes → s.disturbed = false →
    ∃ t, exec (.floydSteinberg width nbytes) s = .next t ∧ EndsDone t ∧
      HasLatched t 0b111#3 width nbytes ∧ CommandFrame s t ∧ RandomSourceUntouched s t ∧
      (∃ old e : Nat → FmtVal, ∀ i, i < nbytes / 4 →
        old i = receivedLum chip width (pixelLum chip s i) e i ∧
        e i = subF chip.fmt (old i) (if old i > 1 / 2 then 1 else 0) ∧
        ((∀ j, j ≤ i → ColorWritten s j) →
          OutPixelIs t i (blackOrWhite (old i > 1 / 2)) (pixelAlpha chip s i))) ∧
      OutKeptFrom nbytes s t

/-- Every command on any other shape fails with InvalidImageShape: OUT, IN and the operand registers
are left alone and the random source is not asked (R193, R195, R196, R84). -/
def Obligations.BadShapeRaisesInvalidImageShape : Prop :=
  ∀ (i : Instr) (s : State), i.wellFormed = true → ¬GoodShape chip i.width i.nbytes →
    ∃ t, exec i s = .next t ∧ EndsWithFailure .invalidImageShape t ∧ CommandFrame s t ∧
      RandomSourceUntouched s t ∧ t.outBuf = s.outBuf

/-- A WhiteNoise command that is ill-shaped reports InvalidImageShape whatever the random source would
answer, which is not asked; no other command ever reports RandomSourceUnavailable (R195). -/
def Obligations.ShapeIsCheckedBeforeTheRandomSource : Prop :=
  (∀ (width nbytes : Nat) (s : State), width < 2 ^ 32 → nbytes < 2 ^ 32 →
      ¬GoodShape chip width nbytes →
      ∃ t, exec (.whiteNoise width nbytes) s = .next t ∧ EndsWithFailure .invalidImageShape t ∧
        RandomSourceUntouched s t) ∧
    (∀ (i : Instr) (s t : State), (∀ width nbytes, i ≠ .whiteNoise width nbytes) →
      exec i s = .next t → t.errcode ≠ failureCode .randomSourceUnavailable)

/-! ### What holds of every command -/

/-- For every successful command and every pixel, the alpha byte of OUT is that of IN (R47). Excepted
are the pixels whose four bytes the spec itself calls unspecified: those that depend on color bytes of
IN never written (R219), and all if the host wrote a buffer while BUSY (R67). -/
def Obligations.AlphaIsNeverModified : Prop :=
  ∀ (i : Instr) (s t : State), i.wellFormed = true → s.disturbed = false →
    exec i s = .next t → t.done = true →
      ∀ k, k < i.nbytes / 4 → InputWritten i s k →
        readCell t.outBuf (4 * k + 3) = some (inByte chip s (4 * k + 3))

/-- Binary output (R144): the kernel of every command but Grayscale leaves every luminance exactly 0
or 1, and every such command that succeeds makes every pixel pure black or pure white, with its own
alpha. Excepted from the second part are the pixels of OUT that the spec itself calls unspecified
(R219, R67). -/
def Obligations.BinaryCommandsEmitBlackOrWhite : Prop :=
  (∀ s : State, LatchedOk chip s.lat → s.lat.m ≠ 0b000#3 → s.idx = 0 →
    ∀ k, k < s.lat.n.toNat →
      readCell (pixelLoop (kernelPixel chip s.lat.m) s).lum k = some 0 ∨
        readCell (pixelLoop (kernelPixel chip s.lat.m) s).lum k = some 1) ∧
  (∀ (i : Instr) (s t : State), i.wellFormed = true → s.disturbed = false →
    (∀ width nbytes, i ≠ .grayscale width nbytes) → exec i s = .next t → t.done = true →
      ∀ k, k < i.nbytes / 4 → InputWritten i s k →
        OutPixelIs t k 0 (pixelAlpha chip s k) ∨ OutPixelIs t k 255 (pixelAlpha chip s k))

/-- Commands, whole or one transition of the sequencer at a time, never change the operand registers
or IN, on any state (R220). -/
def Obligations.OperandRegistersAndInputSurviveCommands : Prop :=
  (∀ (i : Instr) (s t : State), exec i s = .next t →
    t.width = s.width ∧ t.nbytes = s.nbytes ∧ t.method = s.method ∧ t.inBuf = s.inBuf) ∧
  (∀ s : State,
    (seqStep chip s).width = s.width ∧ (seqStep chip s).nbytes = s.nbytes ∧
      (seqStep chip s).method = s.method ∧ (seqStep chip s).inBuf = s.inBuf)

/-- Every command, on every state, ends with exactly one of DONE and ERR and BUSY clear; it leaves
the operand registers, IN and OUT from `nbytes` up alone, and all of OUT if it fails
(R29, R57, R58, R196, R220). -/
def Obligations.EveryCommandEndsAndKeepsItsFrame : Prop :=
  ∀ (i : Instr) (s : State), i.wellFormed = true →
    ∃ t, exec i s = .next t ∧ t.busy = false ∧ t.phase = .idle ∧ (t.done = true ↔ t.err = false) ∧
      CommandFrame s t ∧ OutKeptFrom i.nbytes s t ∧ (t.done = false → t.outBuf = s.outBuf)

/-- The result of a command depends on IN below `nbytes`, its operands and the random source's
answers, and on nothing else: not on the stores, the latched operands or earlier results (R38,
R165, R182). That the random source gives the two runs the same answers is said by equal counters
`rngAsks` and `draws`, of which its answers are functions (log 7). Compared are the pixels that are
specified in both runs (R219). -/
def Obligations.ResultDependsOnInputsOnly : Prop :=
  ∀ (i : Instr) (s₁ s₂ t₁ t₂ : State), i.wellFormed = true →
    s₁.disturbed = false → s₂.disturbed = false →
    (∀ a, a < i.nbytes → inByte chip s₁ a = inByte chip s₂ a) →
    s₁.rngAsks = s₂.rngAsks → s₁.draws = s₂.draws →
    exec i s₁ = .next t₁ → exec i s₂ = .next t₂ →
      t₁.done = t₂.done ∧ t₁.err = t₂.err ∧ t₁.errcode = t₂.errcode ∧
        t₁.rngAsks = t₂.rngAsks ∧ t₁.draws = t₂.draws ∧
        (t₁.done = true → ∀ a, a < i.nbytes → InputWritten i s₁ (a / 4) →
          InputWritten i s₂ (a / 4) → readCell t₁.outBuf a = readCell t₂.outBuf a)

/-- The alpha byte of a pixel influences only its own output alpha: two images that agree in every
color byte, whatever their alphas (written or not), give the same colors in every specified pixel, and
the same alpha there if the two alphas agree (R219, R109; equal counters stand for equal answers of the
random source, log 7). -/
def Obligations.AlphaInfluencesOnlyItsOwnOutputAlpha : Prop :=
  ∀ (i : Instr) (s₁ s₂ t₁ t₂ : State), i.wellFormed = true →
    s₁.disturbed = false → s₂.disturbed = false →
    (∀ k c, k < i.nbytes / 4 → c < 3 →
      readCell s₁.inBuf (byteAddr k c) = readCell s₂.inBuf (byteAddr k c)) →
    s₁.rngAsks = s₂.rngAsks → s₁.draws = s₂.draws →
    exec i s₁ = .next t₁ → exec i s₂ = .next t₂ →
      t₁.done = t₂.done ∧
        (t₁.done = true → ∀ k, k < i.nbytes / 4 → InputWritten i s₁ k →
          (∀ c, c < 3 → readCell t₁.outBuf (byteAddr k c) = readCell t₂.outBuf (byteAddr k c)) ∧
          (pixelAlpha chip s₁ k = pixelAlpha chip s₂ k →
            readCell t₁.outBuf (byteAddr k 3) = readCell t₂.outBuf (byteAddr k 3)))

/-- A pixel of the result that depends on color bytes of IN never written is any value in all its four
bytes: for a command that succeeds the bytes are free values, which nothing constrains; under
FloydSteinberg so are those of every later pixel (R219, U22). -/
def Obligations.UnwrittenInputMakesItsPixelAnyValue : Prop :=
  ∀ (i : Instr) (s t : State), i.wellFormed = true → s.disturbed = false →
    exec i s = .next t → t.done = true →
      ∀ k, k < i.nbytes / 4 → ¬InputWritten i s k → ∀ c, c < 4 →
        readCell t.outBuf (byteAddr k c) = some (chip.freeResult s.fresh (byteAddr k c))

/-- Running the same command again changes neither its outcome nor a byte of OUT, for every command
but WhiteNoise (R60, R220); a pixel that depends on color bytes of IN never written is any value each
time (R219). -/
def Obligations.RepeatedCommandGivesTheSameOutput : Prop :=
  ∀ (i : Instr) (s t u : State), i.wellFormed = true → s.disturbed = false →
    (∀ width nbytes, i ≠ .whiteNoise width nbytes) →
    exec i s = .next t → exec i t = .next u →
      u.done = t.done ∧ u.err = t.err ∧ u.errcode = t.errcode ∧
        ∀ a, t.done = false ∨ i.nbytes ≤ a ∨ InputWritten i s (a / 4) →
          readCell u.outBuf a = readCell t.outBuf a

/-- A command whose buffers the host wrote while BUSY still ends, with DONE or with ERR, the bytes of
OUT at `nbytes` and above and IN are untouched by it, and the mark is cleared, so that the next
command is unaffected (R67). The mark is the model's own field, and what OUT then holds below `nbytes`
is a free value (log 13, 15). -/
def Obligations.DisturbedCommandStillEnds : Prop :=
  ∀ (i : Instr) (s : State), i.wellFormed = true → s.disturbed = true →
    ∃ t, exec i s = .next t ∧ (EndsDone t ∨ ∃ f, EndsWithFailure f t) ∧ t.disturbed = false ∧
      CommandFrame s t ∧ OutKeptFrom i.nbytes s t

/-! ### Special images -/

/-- An image of only pure black and pure white pixels comes out of FloydSteinberg unchanged (R179),
as far as its color bytes have been written (R219). -/
def Obligations.FloydSteinbergKeepsBlackAndWhiteImages : Prop :=
  ∀ (width nbytes : Nat) (s : State), GoodShape chip width nbytes → s.disturbed = false →
    (∀ i, i < nbytes / 4 → PureBlackOrWhite chip s i) →
    ∃ t, exec (.floydSteinberg width nbytes) s = .next t ∧ t.done = true ∧
      ∀ a, a < nbytes → (∀ j, j ≤ a / 4 → ColorWritten s j) →
        readCell t.outBuf a = some (inByte chip s a)

/-- WhiteNoise leaves an image of only pure black and pure white pixels unchanged, whatever the draws
are (R151), as far as its color bytes have been written (R219). -/
def Obligations.WhiteNoiseKeepsBlackAndWhiteImages : Prop :=
  ∀ (width nbytes : Nat) (s : State), GoodShape chip width nbytes → s.disturbed = false →
    (∀ i, i < nbytes / 4 → PureBlackOrWhite chip s i) →
    ∃ t, exec (.whiteNoise width nbytes) s = .next t ∧
      (chip.rngOk s.rngAsks = true →
        t.done = true ∧ ∀ a, a < nbytes → ColorWritten s (a / 4) →
          readCell t.outBuf a = some (inByte chip s a))

/-- On a single pixel FloydSteinberg gives what Quantise gives: nothing is distributed (R177). The pixel's
color has been written (R219). -/
def Obligations.SinglePixelFloydSteinbergIsQuantise : Prop :=
  ∀ s : State, s.disturbed = false →
    ∃ t u, exec (.floydSteinberg 1 4) s = .next t ∧ exec (.quantise 1 4) s = .next u ∧
      t.done = true ∧ u.done = true ∧
      ∀ a, 4 ≤ a ∨ ColorWritten s 0 → readCell t.outBuf a = readCell u.outBuf a

/-! ### The sequencer -/

/-- A sequencer step does not change where the command ends: running the rest of the command after
one transition of R31 gives what running it at once gives (R31, R65; D21). -/
def Obligations.SequencerStepKeepsTheEnd : Prop :=
  ∀ s : State, Inv chip s → s.phase ≠ .idle → resume chip (seqStep chip s) = resume chip s

/-- A command executed as one step is the run of the sequencer from CHECK to IDLE (R31, R78, R90;
D21). -/
def Obligations.CommandIsItsSequencerRun : Prop :=
  ∀ s : State, Inv chip s → s.phase = .check → exec (fetch s) s = .next (resume chip s)

/-- Every started command ends: after a bounded number of sequencer steps BUSY is 0 with exactly one
of DONE and ERR set, in the state the whole run gives (R232). -/
def Obligations.EveryStartedCommandEnds : Prop :=
  ∀ s : State, Inv chip s → s.phase ≠ .idle →
    ∃ k, k ≤ 3 * 2 ^ 30 + 257 ∧ (seqStep chip)^[k] s = resume chip s ∧
      (resume chip s).busy = false ∧ (resume chip s).phase = .idle ∧
      ((resume chip s).done = true ↔ (resume chip s).err = false)

/-! ### Invariants -/

/-- The state after reset has the invariant (R42, R43). R43 leaves IDX unspecified: its value 0, and the
mark `disturbed`, are the model's choice (log 11, log 13). -/
def Obligations.ResetSatisfiesTheInvariant : Prop := Inv chip State.reset

/-- Every step keeps the invariant: at most one status flag, ERR exactly with a code, the code 3
never; BUSY exactly outside IDLE; IDX in the range of its phase and the operands of a passed CHECK
after it; every store and buffer in canonical form with no entry outside it (R26, R28, R30, R31, R54,
R73). The value 0 of IDX in IDLE and CHECK and the mark `disturbed` are the model's choice (log 11,
13). -/
def Obligations.EveryStepKeepsTheInvariant : Prop :=
  ∀ s t : State, Inv chip s → step s = .next t → Inv chip t

/-- Every step keeps LUM full of values of the format only (R33, R95, R96). -/
def Obligations.LuminanceStoreHoldsFormatValues : Prop :=
  ∀ s t : State, LumIsFmt chip s → step s = .next t → LumIsFmt chip t

/-! ### The host's moves -/

/-- A register write other than to CTRL: WIDTH and NBYTES take the value, METHOD its bits [2:0];
STATUS, ERRCODE and numbers 6 and above ignore it; nothing else changes, in particular not the
latched operands of a running command (R21 to R24, R26 to R28, R85). -/
def Obligations.RegisterWritesReachTheirRegister : Prop :=
  ∀ (s : State) (reg : Nat) (v : Word) (rest : List HostMove),
    s.host = .writeReg reg v :: rest → reg ≠ 0 →
      step s = .next
        { s with
          host := rest
          width := if reg = 3 then v else s.width
          nbytes := if reg = 4 then v else s.nbytes
          method := if reg = 5 then BitVec.ofNat 3 (v.toNat % 8) else s.method }

/-- A register read returns CTRL 0, STATUS its three flags in bits 0 to 2, ERRCODE, WIDTH, NBYTES,
METHOD, and 0 for numbers 6 and above; nothing else changes (R23 to R28, R85). The field that holds the
data is the model's choice (log 18). -/
def Obligations.RegisterReadsReturnTheirRegister : Prop :=
  ∀ (s : State) (reg : Nat) (rest : List HostMove), s.host = .readReg reg :: rest →
    ∃ v : Word, step s = .next { s with host := rest, readData := v } ∧
      v.toNat =
        if reg = 1 then s.busy.toNat + 2 * s.done.toNat + 4 * s.err.toNat
        else if reg = 2 then s.errcode.toNat
        else if reg = 3 then s.width.toNat
        else if reg = 4 then s.nbytes.toNat
        else if reg = 5 then s.method.toNat
        else 0

/-- An accepted START: one indivisible step latches the operand registers, sets BUSY, clears DONE,
ERR and ERRCODE and enters CHECK (R27, R25). That IDX is 0 in CHECK is the model's choice (log 11). -/
def Obligations.StartLatchesTheOperands : Prop :=
  ∀ (s : State) (v : Word) (rest : List HostMove),
    s.host = .writeReg 0 v :: rest → v.toNat % 2 = 1 → s.busy = false →
      step s = .next
        { s with
          host := rest
          lat := { s.lat with w := s.width, nb := s.nbytes, m := s.method }
          busy := true, done := false, err := false, errcode := 0
          phase := .check, idx := 0 }

/-- A write of CTRL with bit 0 clear, or while BUSY, does nothing (R25). -/
def Obligations.OtherControlWritesDoNothing : Prop :=
  ∀ (s : State) (v : Word) (rest : List HostMove),
    s.host = .writeReg 0 v :: rest → (v.toNat % 2 = 0 ∨ s.busy = true) →
      step s = .next { s with host := rest }

/-- A host write to an existing address of a buffer changes that byte of that buffer and no other;
while BUSY it marks the running command disturbed (R50, R67, R69). The mark, and that a write of OUT
sets it, are the model's choice (log 13, 15). -/
def Obligations.HostWritesOneByte : Prop :=
  ∀ (s : State) (a : Nat) (v : Byte) (rest : List HostMove), a < 4 * chip.maxPix →
    (s.host = .writeIn a v :: rest →
      ∃ m, step s = .next { s with
          host := rest, inBuf := m, disturbed := s.disturbed || s.busy } ∧
        readCell m a = some v ∧ ∀ b, b ≠ a → readCell m b = readCell s.inBuf b) ∧
    (s.host = .writeOut a v :: rest →
      ∃ m, step s = .next { s with
          host := rest, outBuf := m, disturbed := s.disturbed || s.busy } ∧
        readCell m a = some v ∧ ∀ b, b ≠ a → readCell m b = readCell s.outBuf b)

/-- A host read of a buffer returns the byte there, of OUT only while the block is not BUSY, and
changes nothing else; a read of OUT while BUSY returns some byte (R59, R68, R69). The field that holds
the data, the plain read of IN while BUSY and the free byte's counter are the model's choice (log 18,
23, 14). -/
def Obligations.HostReadsOneByte : Prop :=
  ∀ (s : State) (a : Nat) (rest : List HostMove), a < 4 * chip.maxPix →
    (s.host = .readIn a :: rest →
      step s = .next { s with host := rest, readData := (inByte chip s a).setWidth 32 }) ∧
    (s.host = .readOut a :: rest → s.busy = false →
      step s = .next { s with host := rest, readData := (outByte chip s a).setWidth 32 }) ∧
    (s.host = .readOut a :: rest → s.busy = true →
      ∃ v : Byte, step s = .next
        { s with host := rest, readData := v.setWidth 32, fresh := s.fresh + 1 })

/-- The model's choice (log 16): a host access to a buffer at an address that does not exist stops
with a fault. -/
def Obligations.AddressOutsideTheBuffersFaults : Prop :=
  ∀ (s : State) (a : Nat) (v : Byte) (rest : List HostMove), 4 * chip.maxPix ≤ a →
    (s.host = .writeIn a v :: rest ∨ s.host = .writeOut a v :: rest ∨
      s.host = .readIn a :: rest ∨ s.host = .readOut a :: rest) →
      step s = .fault .addressOutsideBuffer

/-- The reset input: WIDTH, NBYTES, METHOD, STATUS and ERRCODE read 0 and the sequencer is in IDLE,
from any state, a running command being abandoned without DONE or ERR; the state after reset has the
same values (R42, R44). -/
def Obligations.ResetInputClearsTheRegisters : Prop :=
  (∀ (s : State) (rest : List HostMove), s.host = .reset :: rest →
    ∃ t, step s = .next t ∧ t.host = rest ∧ t.phase = .idle ∧
      ∀ reg, readRegister t reg = 0) ∧
  (State.reset.phase = .idle ∧ ∀ reg, readRegister State.reset reg = 0)

/-- After reset a command started with the reset operand values, by any method the host writes, fails
with InvalidImageShape (R45). -/
def Obligations.CommandAfterResetFails : Prop :=
  ∀ v : Word, ∃ s₁ s₂ t,
    step { State.reset with host := [.writeReg 5 v, .writeReg 0 1] } = .next s₁ ∧
      step s₁ = .next s₂ ∧ step s₂ = .next t ∧
      s₂.busy = true ∧ EndsWithFailure .invalidImageShape t ∧ t.outBuf = []

/-- While no command runs and the host makes no move, nothing happens (R69; as a step that answers the
same state it is the model's choice, log 23). -/
def Obligations.IdleBlockDoesNothing : Prop :=
  ∀ s : State, s.phase = .idle → s.host = [] → step s = .next s

/-! ### The Bayer matrices -/

/-- The base case: `B_0` is the fixed 2 by 2 matrix `[0, 2, 3, 1]`, row-major (R126). -/
def Obligations.BaseMatrixIsTheFixedPattern : Prop :=
  bayerEntry 0 0 0 = 0 ∧ bayerEntry 0 0 1 = 2 ∧ bayerEntry 0 1 0 = 3 ∧ bayerEntry 0 1 1 = 1

/-- The recursion of R127 has the closed form of R129, at every order. -/
def Obligations.MatrixRecursionHasClosedForm : Prop :=
  ∀ n r c : Nat, r < 2 ^ (n + 1) → c < 2 ^ (n + 1) → bayerEntry n r c = bayerClosed n r c

/-- Every entry of `B_n` is below `4^(n+1)` and the entries are all distinct (R130). -/
def Obligations.MatrixIsAPermutation : Prop :=
  ∀ n r c : Nat, r < 2 ^ (n + 1) → c < 2 ^ (n + 1) →
    bayerEntry n r c < 4 ^ (n + 1) ∧
      ∀ r' c' : Nat, r' < 2 ^ (n + 1) → c' < 2 ^ (n + 1) →
        bayerEntry n r c = bayerEntry n r' c' → r = r' ∧ c = c'

/-- BUILD(n) of a requested order leaves `B_n` in MAT, row-major, with nothing lost to 8 bits, leaves
the entries from `m*m` up as they were, and changes nothing else (R128, R130, R36). -/
def Obligations.BuildLeavesTheMatrix : Prop :=
  ∀ (n : Nat) (s : State), n ≤ 3 → s.idx = 0 →
    ∃ m, buildPhase n s = { s with mat := m } ∧
      (∀ r c : Nat, r < 2 ^ (n + 1) → c < 2 ^ (n + 1) →
        ∃ b : Byte, readCell m (r * 2 ^ (n + 1) + c) = some b ∧ b.toNat = bayerEntry n r c) ∧
      ∀ k, 2 ^ (n + 1) * 2 ^ (n + 1) ≤ k → readCell m k = readCell s.mat k

/-- The matrices of orders 0 to 3, every entry, row by row, are the tables of R131. -/
def Obligations.MatricesAreTheTables : Prop :=
  (List.range 4).map (fun k => bayerEntry 0 (k / 2) (k % 2)) = [0, 2, 3, 1] ∧
    (List.range 16).map (fun k => bayerEntry 1 (k / 4) (k % 4)) =
      [0, 8, 2, 10, 12, 4, 14, 6, 3, 11, 1, 9, 15, 7, 13, 5] ∧
    (List.range 64).map (fun k => bayerEntry 2 (k / 8) (k % 8)) =
      [0, 32, 8, 40, 2, 34, 10, 42, 48, 16, 56, 24, 50, 18, 58, 26,
        12, 44, 4, 36, 14, 46, 6, 38, 60, 28, 52, 20, 62, 30, 54, 22,
        3, 35, 11, 43, 1, 33, 9, 41, 51, 19, 59, 27, 49, 17, 57, 25,
        15, 47, 7, 39, 13, 45, 5, 37, 63, 31, 55, 23, 61, 29, 53, 21] ∧
    (List.range 256).map (fun k => bayerEntry 3 (k / 16) (k % 16)) =
        [0, 128, 32, 160, 8, 136, 40, 168, 2, 130, 34, 162, 10, 138, 42, 170] ++
        [192, 64, 224, 96, 200, 72, 232, 104, 194, 66, 226, 98, 202, 74, 234, 106] ++
        [48, 176, 16, 144, 56, 184, 24, 152, 50, 178, 18, 146, 58, 186, 26, 154] ++
        [240, 112, 208, 80, 248, 120, 216, 88, 242, 114, 210, 82, 250, 122, 218, 90] ++
        [12, 140, 44, 172, 4, 132, 36, 164, 14, 142, 46, 174, 6, 134, 38, 166] ++
        [204, 76, 236, 108, 196, 68, 228, 100, 206, 78, 238, 110, 198, 70, 230, 102] ++
        [60, 188, 28, 156, 52, 180, 20, 148, 62, 190, 30, 158, 54, 182, 22, 150] ++
        [252, 124, 220, 92, 244, 116, 212, 84, 254, 126, 222, 94, 246, 118, 214, 86] ++
        [3, 131, 35, 163, 11, 139, 43, 171, 1, 129, 33, 161, 9, 137, 41, 169] ++
        [195, 67, 227, 99, 203, 75, 235, 107, 193, 65, 225, 97, 201, 73, 233, 105] ++
        [51, 179, 19, 147, 59, 187, 27, 155, 49, 177, 17, 145, 57, 185, 25, 153] ++
        [243, 115, 211, 83, 251, 123, 219, 91, 241, 113, 209, 81, 249, 121, 217, 89] ++
        [15, 143, 47, 175, 7, 135, 39, 167, 13, 141, 45, 173, 5, 133, 37, 165] ++
        [207, 79, 239, 111, 199, 71, 231, 103, 205, 77, 237, 109, 197, 69, 229, 101] ++
        [63, 191, 31, 159, 55, 183, 23, 151, 61, 189, 29, 157, 53, 181, 21, 149] ++
        [255, 127, 223, 95, 247, 119, 215, 87, 253, 125, 221, 93, 245, 117, 213, 85]

/-- The division that normalises a threshold is exact in both formats (R161). -/
def Obligations.NormalisedThresholdsAreExact : Prop :=
  ∀ (f : Fmt) (n : Nat) (b : Byte), n ≤ 3 → b.toNat < 4 ^ (n + 1) →
    divF f (u8ToF b) (divisorOf n : Rat) = (b.toNat : Rat) / 4 ^ (n + 1)

/-- Exactly `ceil(x * D)` of the entries of `B_n` have a normalised threshold below `x`, for `x` in
[0, 1] (the count of R162). -/
def Obligations.ThresholdsBelowCountIsCeil : Prop :=
  ∀ (n : Nat) (x : Rat), 0 ≤ x → x ≤ 1 →
    (((Finset.range (2 ^ (n + 1))) ×ˢ (Finset.range (2 ^ (n + 1)))).filter
      (fun rc => (bayerEntry n rc.1 rc.2 : Rat) / 4 ^ (n + 1) < x)).card = ⌈x * 4 ^ (n + 1)⌉₊

/-- Under a Bayer command, a full `m` by `m` tile of OUT over pixels of one luminance `x` (their colors
written) has exactly `ceil(x * D)` white pixels (R162; a tile starts at multiples of `m`, R155). -/
def Obligations.ConstantTileHoldsCeilWhitePixels : Prop :=
  ∀ (width nbytes : Nat) (s : State), GoodShape chip width nbytes → s.disturbed = false →
    ∀ c ∈ [(Instr.bayer0 width nbytes, 0), (Instr.bayer1 width nbytes, 1),
      (Instr.bayer2 width nbytes, 2), (Instr.bayer3 width nbytes, 3)],
      ∃ t, exec c.1 s = .next t ∧ t.done = true ∧
        ∀ (x : Rat) (tileCol tileRow : Nat),
          let m := 2 ^ (c.2 + 1)
          let pixel := fun rc : Nat × Nat => (tileRow * m + rc.1) * width + (tileCol * m + rc.2)
          (tileCol + 1) * m ≤ width → (tileRow + 1) * m ≤ nbytes / 4 / width →
          (∀ r k, r < m → k < m →
            ColorWritten s (pixel (r, k)) ∧ pixelLum chip s (pixel (r, k)) = x) →
            (((Finset.range m) ×ˢ (Finset.range m)).filter (fun rc =>
              readCell t.outBuf (byteAddr (pixel rc) 0) = some 255 ∧
                readCell t.outBuf (byteAddr (pixel rc) 1) = some 255 ∧
                readCell t.outBuf (byteAddr (pixel rc) 2) = some 255)).card =
              ⌈x * 4 ^ (c.2 + 1)⌉₊

/-! ### The error diffusion -/

/-- At a step the four shares go to the pixels at `(x+1, y)`, `(x-1, y+1)`, `(x, y+1)` and
`(x+1, y+1)` that exist, and to no other entry of the store, inside the image or beyond it: a share
whose pixel does not exist is dropped, and nothing wraps around an edge (R171, R174, R175). -/
def Obligations.SharesReachExactlyTheNeighbours : Prop :=
  ∀ (s : State) (e : FmtVal) (x y : Nat), x < s.lat.w.toNat → y < s.lat.h.toNat →
    ∃ l, diffuse chip (y * s.lat.w.toNat + x) e s = { s with lum := l } ∧
      (∀ x' y', x' < s.lat.w.toNat → y' < s.lat.h.toNat →
        let j := y' * s.lat.w.toNat + x'
        let add := fun k => some (addF chip.fmt (lumAt chip s j) (wt chip e k))
        readCell l j =
          if x' = x + 1 ∧ y' = y then add 7
          else if x' + 1 = x ∧ y' = y + 1 then add 3
          else if x' = x ∧ y' = y + 1 then add 5
          else if x' = x + 1 ∧ y' = y + 1 then add 1
          else readCell s.lum j) ∧
      ∀ j, s.lat.w.toNat * s.lat.h.toNat ≤ j → readCell l j = readCell s.lum j

/-- After step `i` the entry `LUM[i]` is exactly 0 or 1, and no later step writes it (R172). -/
def Obligations.DiffusedPixelsAreFinal : Prop :=
  ∀ (s : State) (i k : Nat), 0 < s.lat.w.toNat → i < k →
    (readCell (floydSteinbergPixel chip i s).lum i = some 0 ∨
      readCell (floydSteinbergPixel chip i s).lum i = some 1) ∧
    readCell (floydSteinbergPixel chip k s).lum i = readCell s.lum i

/-- The order of the pixels is not observable in DECODE, Quantise, Bayer and ENCODE: the work on two
pixels commutes (R65, R32). -/
def Obligations.PointwiseWorkCommutes : Prop :=
  ∀ (s : State) (i j n : Nat), CellsOk chip s → i ≠ j →
    decodePixel chip i (decodePixel chip j s) = decodePixel chip j (decodePixel chip i s) ∧
      quantisePixel chip i (quantisePixel chip j s) =
        quantisePixel chip j (quantisePixel chip i s) ∧
      bayerPixel chip n i (bayerPixel chip n j s) = bayerPixel chip n j (bayerPixel chip n i s) ∧
      encodePixel chip i (encodePixel chip j s) = encodePixel chip j (encodePixel chip i s)

/-! ### Numerics -/

/-- Rounding is to nearest: the rounded value is a value of the format, no value of the format is
closer to the exact one, and rounding is monotone (R17, R96). The formats have no largest exponent in
the model, so this holds beyond their range too (log 8). Which of two equally near values is taken is
not said here. -/
def Obligations.RoundingIsToNearest : Prop :=
  ∀ (f : Fmt) (x : Rat), IsFmt f (rnd f x) ∧
    (∀ u : Rat, IsFmt f u → |x - rnd f x| ≤ |x - u|) ∧ ∀ y : Rat, x ≤ y → rnd f x ≤ rnd f y

/-- The linear branch of `lin` is taken exactly for bytes 0 to 10, in both formats; `lin(0) = 0`
and `lin(255) = 1` (R106). -/
def Obligations.LinearBranchEndsAtTen : Prop :=
  (∀ (f : Fmt) (v : Byte), divF f (u8ToF v) (k255 f) < k04045 f ↔ v.toNat ≤ 10) ∧
    lin chip 0 = 0 ∧ lin chip 255 = 1

/-- Every luminance DECODE gives lies in [0, 1]; black gives 0 and white exactly 1 (R108, R34). -/
def Obligations.LuminanceStaysInUnitInterval : Prop :=
  (∀ r g b : Byte, 0 ≤ lumOf chip r g b ∧ lumOf chip r g b ≤ 1) ∧
    lumOf chip 0 0 0 = 0 ∧ lumOf chip 255 255 255 = 1

/-- A gray pixel's luminance exceeds 1/2 exactly from byte 188 on, for every admitted format and power
function (R117). -/
def Obligations.MidGrayByteIs188 : Prop :=
  ∀ v : Byte, 1 / 2 < lumOf chip v v v ↔ 188 ≤ v.toNat

/-- The luminances 0 and 1 encode to the bytes 0 and 255, although `gam(1)` is below 1 (R111, R113,
R114). -/
def Obligations.BinaryLuminancesEncodeToTheirBytes : Prop :=
  grayByte chip 0 = 0 ∧ grayByte chip 1 = 255 ∧ gam chip 0 = 0 ∧ gam chip 1 < 1
end

