-- ==== Sys2Proof/Laws/Cells.lean ====
section
/-! SUPPORT. Laws/Cells.lean: reading and writing the cells of a store or buffer, and the canonical
form. -/

namespace Sys2Proof.Machine

variable {α : Type}

@[simp] theorem readCell_nil (a : Nat) : readCell ([] : List (Nat × α)) a = none := rfl

/-- A read after a write to the same place gives the value written. -/
@[simp] theorem readCell_writeCell_same (l : List (Nat × α)) (a : Nat) (v : α) :
    readCell (writeCell l a v) a = some v := by
  induction l with
  | nil => simp [writeCell, readCell]
  | cons c rest ih =>
    obtain ⟨b, u⟩ := c
    unfold writeCell
    split
    · simp [readCell]
    · split
      · simp [readCell]
      · simp [readCell, *]

/-- A write leaves every other place alone. -/
theorem readCell_writeCell_other (l : List (Nat × α)) {a b : Nat} (v : α) (h : b ≠ a) :
    readCell (writeCell l a v) b = readCell l b := by
  induction l with
  | nil => simp [writeCell, readCell, h]
  | cons c rest ih =>
    obtain ⟨d, u⟩ := c
    unfold writeCell
    split
    · simp [readCell, h]
    · split
      · next h2 => subst h2; simp [readCell, h]
      · simp only [readCell]; split <;> simp_all

/-- Reading after a write, both cases. -/
theorem readCell_writeCell (l : List (Nat × α)) (a b : Nat) (v : α) :
    readCell (writeCell l a v) b = if b = a then some v else readCell l b := by
  by_cases h : b = a
  · subst h; simp
  · simp [h, readCell_writeCell_other l v h]

/-- The keys of a written list are the old ones and the written one. -/
theorem mem_writeCell {l : List (Nat × α)} {a : Nat} {v : α} {c : Nat × α}
    (h : c ∈ writeCell l a v) : c = (a, v) ∨ c ∈ l := by
  induction l with
  | nil => simpa [writeCell] using h
  | cons d rest ih =>
    obtain ⟨b, u⟩ := d
    unfold writeCell at h
    split at h
    · simpa using h
    · split at h
      · rcases List.mem_cons.mp h with h | h
        · exact Or.inl h
        · exact Or.inr (List.mem_cons_of_mem _ h)
      · rcases List.mem_cons.mp h with h | h
        · exact Or.inr (h ▸ List.mem_cons_self)
        · exact (ih h).imp_right (List.mem_cons_of_mem _)

@[simp] theorem cellsWf_nil : CellsWf ([] : List (Nat × α)) := List.Pairwise.nil

theorem cellsWf_cons {b : Nat} {u : α} {rest : List (Nat × α)} :
    CellsWf ((b, u) :: rest) ↔ (∀ c ∈ rest, b < c.1) ∧ CellsWf rest := by
  simp [CellsWf]

/-- A write keeps the canonical form. -/
theorem writeCell_wf {l : List (Nat × α)} (a : Nat) (v : α) (h : CellsWf l) :
    CellsWf (writeCell l a v) := by
  induction l with
  | nil => simp [writeCell, CellsWf]
  | cons d rest ih =>
    obtain ⟨b, u⟩ := d
    obtain ⟨hb, hr⟩ := cellsWf_cons.mp h
    unfold writeCell
    split
    · next hab =>
      refine cellsWf_cons.mpr ⟨fun c hc => ?_, h⟩
      rcases List.mem_cons.mp hc with rfl | hc
      · exact hab
      · exact hab.trans (hb c hc)
    · split
      · next hab => subst hab; exact cellsWf_cons.mpr ⟨hb, hr⟩
      · next h1 h2 =>
        refine cellsWf_cons.mpr ⟨fun c hc => ?_, ih hr⟩
        rcases mem_writeCell hc with rfl | hc
        · exact lt_of_le_of_ne (not_lt.mp h1) (Ne.symm h2)
        · exact hb c hc

/-- A write below a bound keeps every key below it. -/
theorem writeCell_below {l : List (Nat × α)} {bound a : Nat} (v : α) (h : CellsBelow bound l)
    (ha : a < bound) : CellsBelow bound (writeCell l a v) := by
  intro c hc
  rcases mem_writeCell hc with rfl | hc
  · exact ha
  · exact h c hc

/-- A listed cell of a canonical list is what a read of its key gives. -/
theorem readCell_of_mem {l : List (Nat × α)} (h : CellsWf l) {c : Nat × α} (hc : c ∈ l) :
    readCell l c.1 = some c.2 := by
  induction l with
  | nil => simp at hc
  | cons d rest ih =>
    obtain ⟨b, u⟩ := d
    obtain ⟨hb, hr⟩ := cellsWf_cons.mp h
    rcases List.mem_cons.mp hc with rfl | hc
    · simp [readCell]
    · simp [readCell, (hb c hc).ne', ih hr hc]

/-- What a read gives is listed. -/
theorem mem_of_readCell {l : List (Nat × α)} {a : Nat} {v : α} (h : readCell l a = some v) :
    (a, v) ∈ l := by
  induction l with
  | nil => simp at h
  | cons d rest ih =>
    obtain ⟨b, u⟩ := d
    simp only [readCell] at h
    split at h
    · next hab => cases h; subst hab; exact List.mem_cons_self
    · exact List.mem_cons_of_mem _ (ih h)

/-- Canonical lists with equal contents are equal: equal memories are equal data. -/
theorem cells_ext {l l' : List (Nat × α)} (h : CellsWf l) (h' : CellsWf l')
    (hr : ∀ a, readCell l a = readCell l' a) : l = l' := by
  have hp : ∀ {m : List (Nat × α)}, CellsWf m → m.Pairwise (fun c d => c.1 < d.1) := fun hm => by
    simpa [CellsWf, List.pairwise_map] using hm
  have hm : ∀ {m m' : List (Nat × α)}, CellsWf m → (∀ a, readCell m a = readCell m' a) →
      ∀ c ∈ m, c ∈ m' := fun hw hq c hc =>
    mem_of_readCell ((hq c.1).symm.trans (readCell_of_mem hw hc))
  refine List.Perm.eq_of_pairwise (le := fun c d : Nat × α => c.1 < d.1)
    (fun a b _ _ hab hba => absurd (hab.trans hba) (lt_irrefl _)) (hp h) (hp h') ?_
  refine (List.perm_ext_iff_of_nodup ?_ ?_).mpr fun c => ⟨hm h hr c, hm h' (fun a => (hr a).symm) c⟩
  · exact (hp h).imp fun hab e => by simp [e] at hab
  · exact (hp h').imp fun hab e => by simp [e] at hab

end Sys2Proof.Machine
end

