-- ==== Sys2Proof/Laws/Loops.lean ====
section
/-! SUPPORT. Laws/Loops.lean: what a loop does, once and for all. -/

namespace Sys2Proof.Machine

variable {f g : Nat → State → State} {count start : Nat} {s : State}

@[simp] theorem forRange_zero : forRange f 0 start s = s := rfl

theorem forRange_succ :
    forRange f (count + 1) start s = forRange f count (start + 1) (f start s) := rfl

/-- The induction principle of a loop: an invariant that holds before it and that every iteration
carries to the next index holds after it. -/
theorem forRange_induct (P : Nat → State → Prop) (h0 : P start s)
    (hstep : ∀ i s, start ≤ i → i < start + count → P i s → P (i + 1) (f i s)) :
    P (start + count) (forRange f count start s) := by
  induction count generalizing start s with
  | zero => exact h0
  | succ n ih =>
    rw [forRange_succ, show start + (n + 1) = start + 1 + n by omega]
    refine ih (hstep start s le_rfl (by omega) h0) fun i t h1 h2 => hstep i t (by omega) (by omega)

/-- What every iteration leaves alone, the loop leaves alone. -/
theorem forRange_keeps {β : Type} (get : State → β) (h : ∀ i s, get (f i s) = get s) :
    get (forRange f count start s) = get s :=
  forRange_induct (P := fun _ t => get t = get s) rfl fun i t _ _ ht => (h i t).trans ht

/-- A loop in two parts. -/
theorem forRange_add (m : Nat) :
    forRange f (m + count) start s = forRange f count (start + m) (forRange f m start s) := by
  induction m generalizing start s with
  | zero => simp
  | succ n ih =>
    rw [show n + 1 + count = (n + count) + 1 by omega, forRange_succ, ih, forRange_succ,
      show start + 1 + n = start + (n + 1) by omega]

/-- Two loops whose bodies agree in range agree. -/
theorem forRange_congr (h : ∀ i s, start ≤ i → i < start + count → f i s = g i s) :
    forRange f count start s = forRange g count start s := by
  induction count generalizing start s with
  | zero => rfl
  | succ n ih =>
    rw [forRange_succ, forRange_succ, h start s le_rfl (by omega)]
    exact ih fun i t h1 h2 => h i t (by omega) (by omega)

/-- The pixel loop runs the indices from `IDX` to `N-1`. -/
theorem pixelLoop_eq (f : Nat → State → State) (s : State) :
    pixelLoop f s = forRange f (s.lat.n.toNat - s.idx.toNat) s.idx.toNat s := rfl

/-- A pixel loop that starts at index 0. -/
theorem pixelLoop_from_zero (f : Nat → State → State) {s : State} (h : s.idx = 0) :
    pixelLoop f s = forRange f s.lat.n.toNat 0 s := by
  simp [pixelLoop, h]

/-- What every pixel leaves alone, the pixel loop leaves alone. -/
theorem pixelLoop_keeps {β : Type} (get : State → β) (h : ∀ i s, get (f i s) = get s) :
    get (pixelLoop f s) = get s := forRange_keeps get h

/-- The induction principle of a pixel loop that starts at index 0. -/
theorem pixelLoop_induct (P : Nat → State → Prop) (hidx : s.idx = 0) (h0 : P 0 s)
    (hstep : ∀ i t, i < s.lat.n.toNat → P i t → P (i + 1) (f i t)) :
    P s.lat.n.toNat (pixelLoop f s) := by
  have := forRange_induct (f := f) (count := s.lat.n.toNat) (start := 0) (s := s) P h0
    fun i t _ h => hstep i t (by omega)
  simpa [pixelLoop, hidx] using this

end Sys2Proof.Machine
end

