-- ==== Sys2Proof/Laws/State.lean ====
section
/-! SUPPORT. Laws/State.lean: for every named update of the state, what each field is afterwards.
All hold by definition; with them no proof unfolds a record update. -/

namespace Sys2Proof.Machine

variable (s : State)

/-! ### `setOut` -/

@[simp] theorem setOut_width (a : Nat) (v : Byte) : (setOut a v s).width = s.width := rfl
@[simp] theorem setOut_nbytes (a : Nat) (v : Byte) : (setOut a v s).nbytes = s.nbytes := rfl
@[simp] theorem setOut_method (a : Nat) (v : Byte) : (setOut a v s).method = s.method := rfl
@[simp] theorem setOut_busy (a : Nat) (v : Byte) : (setOut a v s).busy = s.busy := rfl
@[simp] theorem setOut_done (a : Nat) (v : Byte) : (setOut a v s).done = s.done := rfl
@[simp] theorem setOut_err (a : Nat) (v : Byte) : (setOut a v s).err = s.err := rfl
@[simp] theorem setOut_errcode (a : Nat) (v : Byte) : (setOut a v s).errcode = s.errcode := rfl
@[simp] theorem setOut_lat (a : Nat) (v : Byte) : (setOut a v s).lat = s.lat := rfl
@[simp] theorem setOut_phase (a : Nat) (v : Byte) : (setOut a v s).phase = s.phase := rfl
@[simp] theorem setOut_idx (a : Nat) (v : Byte) : (setOut a v s).idx = s.idx := rfl
@[simp] theorem setOut_lum (a : Nat) (v : Byte) : (setOut a v s).lum = s.lum := rfl
@[simp] theorem setOut_alpha (a : Nat) (v : Byte) : (setOut a v s).alpha = s.alpha := rfl
@[simp] theorem setOut_mat (a : Nat) (v : Byte) : (setOut a v s).mat = s.mat := rfl
@[simp] theorem setOut_inBuf (a : Nat) (v : Byte) : (setOut a v s).inBuf = s.inBuf := rfl
@[simp] theorem setOut_outBuf (a : Nat) (v : Byte) :
    (setOut a v s).outBuf = writeCell s.outBuf a v := rfl
@[simp] theorem setOut_readData (a : Nat) (v : Byte) : (setOut a v s).readData = s.readData := rfl
@[simp] theorem setOut_host (a : Nat) (v : Byte) : (setOut a v s).host = s.host := rfl
@[simp] theorem setOut_rngAsks (a : Nat) (v : Byte) : (setOut a v s).rngAsks = s.rngAsks := rfl
@[simp] theorem setOut_draws (a : Nat) (v : Byte) : (setOut a v s).draws = s.draws := rfl
@[simp] theorem setOut_disturbed (a : Nat) (v : Byte) :
    (setOut a v s).disturbed = s.disturbed := rfl
@[simp] theorem setOut_bufEra (a : Nat) (v : Byte) : (setOut a v s).bufEra = s.bufEra := rfl
@[simp] theorem setOut_storeEra (a : Nat) (v : Byte) : (setOut a v s).storeEra = s.storeEra := rfl
@[simp] theorem setOut_fresh (a : Nat) (v : Byte) : (setOut a v s).fresh = s.fresh := rfl

/-! ### `setIn` -/

@[simp] theorem setIn_width (a : Nat) (v : Byte) : (setIn a v s).width = s.width := rfl
@[simp] theorem setIn_nbytes (a : Nat) (v : Byte) : (setIn a v s).nbytes = s.nbytes := rfl
@[simp] theorem setIn_method (a : Nat) (v : Byte) : (setIn a v s).method = s.method := rfl
@[simp] theorem setIn_busy (a : Nat) (v : Byte) : (setIn a v s).busy = s.busy := rfl
@[simp] theorem setIn_done (a : Nat) (v : Byte) : (setIn a v s).done = s.done := rfl
@[simp] theorem setIn_err (a : Nat) (v : Byte) : (setIn a v s).err = s.err := rfl
@[simp] theorem setIn_errcode (a : Nat) (v : Byte) : (setIn a v s).errcode = s.errcode := rfl
@[simp] theorem setIn_lat (a : Nat) (v : Byte) : (setIn a v s).lat = s.lat := rfl
@[simp] theorem setIn_phase (a : Nat) (v : Byte) : (setIn a v s).phase = s.phase := rfl
@[simp] theorem setIn_idx (a : Nat) (v : Byte) : (setIn a v s).idx = s.idx := rfl
@[simp] theorem setIn_lum (a : Nat) (v : Byte) : (setIn a v s).lum = s.lum := rfl
@[simp] theorem setIn_alpha (a : Nat) (v : Byte) : (setIn a v s).alpha = s.alpha := rfl
@[simp] theorem setIn_mat (a : Nat) (v : Byte) : (setIn a v s).mat = s.mat := rfl
@[simp] theorem setIn_inBuf (a : Nat) (v : Byte) :
    (setIn a v s).inBuf = writeCell s.inBuf a v := rfl
@[simp] theorem setIn_outBuf (a : Nat) (v : Byte) : (setIn a v s).outBuf = s.outBuf := rfl
@[simp] theorem setIn_readData (a : Nat) (v : Byte) : (setIn a v s).readData = s.readData := rfl
@[simp] theorem setIn_host (a : Nat) (v : Byte) : (setIn a v s).host = s.host := rfl
@[simp] theorem setIn_rngAsks (a : Nat) (v : Byte) : (setIn a v s).rngAsks = s.rngAsks := rfl
@[simp] theorem setIn_draws (a : Nat) (v : Byte) : (setIn a v s).draws = s.draws := rfl
@[simp] theorem setIn_disturbed (a : Nat) (v : Byte) : (setIn a v s).disturbed = s.disturbed := rfl
@[simp] theorem setIn_bufEra (a : Nat) (v : Byte) : (setIn a v s).bufEra = s.bufEra := rfl
@[simp] theorem setIn_storeEra (a : Nat) (v : Byte) : (setIn a v s).storeEra = s.storeEra := rfl
@[simp] theorem setIn_fresh (a : Nat) (v : Byte) : (setIn a v s).fresh = s.fresh := rfl

/-! ### `setLum` -/

@[simp] theorem setLum_width (i : Nat) (v : FmtVal) : (setLum i v s).width = s.width := rfl
@[simp] theorem setLum_nbytes (i : Nat) (v : FmtVal) : (setLum i v s).nbytes = s.nbytes := rfl
@[simp] theorem setLum_method (i : Nat) (v : FmtVal) : (setLum i v s).method = s.method := rfl
@[simp] theorem setLum_busy (i : Nat) (v : FmtVal) : (setLum i v s).busy = s.busy := rfl
@[simp] theorem setLum_done (i : Nat) (v : FmtVal) : (setLum i v s).done = s.done := rfl
@[simp] theorem setLum_err (i : Nat) (v : FmtVal) : (setLum i v s).err = s.err := rfl
@[simp] theorem setLum_errcode (i : Nat) (v : FmtVal) : (setLum i v s).errcode = s.errcode := rfl
@[simp] theorem setLum_lat (i : Nat) (v : FmtVal) : (setLum i v s).lat = s.lat := rfl
@[simp] theorem setLum_phase (i : Nat) (v : FmtVal) : (setLum i v s).phase = s.phase := rfl
@[simp] theorem setLum_idx (i : Nat) (v : FmtVal) : (setLum i v s).idx = s.idx := rfl
@[simp] theorem setLum_lum (i : Nat) (v : FmtVal) : (setLum i v s).lum = writeCell s.lum i v := rfl
@[simp] theorem setLum_alpha (i : Nat) (v : FmtVal) : (setLum i v s).alpha = s.alpha := rfl
@[simp] theorem setLum_mat (i : Nat) (v : FmtVal) : (setLum i v s).mat = s.mat := rfl
@[simp] theorem setLum_inBuf (i : Nat) (v : FmtVal) : (setLum i v s).inBuf = s.inBuf := rfl
@[simp] theorem setLum_outBuf (i : Nat) (v : FmtVal) : (setLum i v s).outBuf = s.outBuf := rfl
@[simp] theorem setLum_readData (i : Nat) (v : FmtVal) : (setLum i v s).readData = s.readData := rfl
@[simp] theorem setLum_host (i : Nat) (v : FmtVal) : (setLum i v s).host = s.host := rfl
@[simp] theorem setLum_rngAsks (i : Nat) (v : FmtVal) : (setLum i v s).rngAsks = s.rngAsks := rfl
@[simp] theorem setLum_draws (i : Nat) (v : FmtVal) : (setLum i v s).draws = s.draws := rfl
@[simp] theorem setLum_disturbed (i : Nat) (v : FmtVal) :
    (setLum i v s).disturbed = s.disturbed := rfl
@[simp] theorem setLum_bufEra (i : Nat) (v : FmtVal) : (setLum i v s).bufEra = s.bufEra := rfl
@[simp] theorem setLum_storeEra (i : Nat) (v : FmtVal) : (setLum i v s).storeEra = s.storeEra := rfl
@[simp] theorem setLum_fresh (i : Nat) (v : FmtVal) : (setLum i v s).fresh = s.fresh := rfl

/-! ### `setAlpha` -/

@[simp] theorem setAlpha_width (i : Nat) (v : Byte) : (setAlpha i v s).width = s.width := rfl
@[simp] theorem setAlpha_nbytes (i : Nat) (v : Byte) : (setAlpha i v s).nbytes = s.nbytes := rfl
@[simp] theorem setAlpha_method (i : Nat) (v : Byte) : (setAlpha i v s).method = s.method := rfl
@[simp] theorem setAlpha_busy (i : Nat) (v : Byte) : (setAlpha i v s).busy = s.busy := rfl
@[simp] theorem setAlpha_done (i : Nat) (v : Byte) : (setAlpha i v s).done = s.done := rfl
@[simp] theorem setAlpha_err (i : Nat) (v : Byte) : (setAlpha i v s).err = s.err := rfl
@[simp] theorem setAlpha_errcode (i : Nat) (v : Byte) : (setAlpha i v s).errcode = s.errcode := rfl
@[simp] theorem setAlpha_lat (i : Nat) (v : Byte) : (setAlpha i v s).lat = s.lat := rfl
@[simp] theorem setAlpha_phase (i : Nat) (v : Byte) : (setAlpha i v s).phase = s.phase := rfl
@[simp] theorem setAlpha_idx (i : Nat) (v : Byte) : (setAlpha i v s).idx = s.idx := rfl
@[simp] theorem setAlpha_lum (i : Nat) (v : Byte) : (setAlpha i v s).lum = s.lum := rfl
@[simp] theorem setAlpha_alpha (i : Nat) (v : Byte) :
    (setAlpha i v s).alpha = writeCell s.alpha i v := rfl
@[simp] theorem setAlpha_mat (i : Nat) (v : Byte) : (setAlpha i v s).mat = s.mat := rfl
@[simp] theorem setAlpha_inBuf (i : Nat) (v : Byte) : (setAlpha i v s).inBuf = s.inBuf := rfl
@[simp] theorem setAlpha_outBuf (i : Nat) (v : Byte) : (setAlpha i v s).outBuf = s.outBuf := rfl
@[simp] theorem setAlpha_readData (i : Nat) (v : Byte) :
    (setAlpha i v s).readData = s.readData := rfl
@[simp] theorem setAlpha_host (i : Nat) (v : Byte) : (setAlpha i v s).host = s.host := rfl
@[simp] theorem setAlpha_rngAsks (i : Nat) (v : Byte) : (setAlpha i v s).rngAsks = s.rngAsks := rfl
@[simp] theorem setAlpha_draws (i : Nat) (v : Byte) : (setAlpha i v s).draws = s.draws := rfl
@[simp] theorem setAlpha_disturbed (i : Nat) (v : Byte) :
    (setAlpha i v s).disturbed = s.disturbed := rfl
@[simp] theorem setAlpha_bufEra (i : Nat) (v : Byte) : (setAlpha i v s).bufEra = s.bufEra := rfl
@[simp] theorem setAlpha_storeEra (i : Nat) (v : Byte) :
    (setAlpha i v s).storeEra = s.storeEra := rfl
@[simp] theorem setAlpha_fresh (i : Nat) (v : Byte) : (setAlpha i v s).fresh = s.fresh := rfl

/-! ### `setMat` -/

@[simp] theorem setMat_width (k : Nat) (v : Byte) : (setMat k v s).width = s.width := rfl
@[simp] theorem setMat_nbytes (k : Nat) (v : Byte) : (setMat k v s).nbytes = s.nbytes := rfl
@[simp] theorem setMat_method (k : Nat) (v : Byte) : (setMat k v s).method = s.method := rfl
@[simp] theorem setMat_busy (k : Nat) (v : Byte) : (setMat k v s).busy = s.busy := rfl
@[simp] theorem setMat_done (k : Nat) (v : Byte) : (setMat k v s).done = s.done := rfl
@[simp] theorem setMat_err (k : Nat) (v : Byte) : (setMat k v s).err = s.err := rfl
@[simp] theorem setMat_errcode (k : Nat) (v : Byte) : (setMat k v s).errcode = s.errcode := rfl
@[simp] theorem setMat_lat (k : Nat) (v : Byte) : (setMat k v s).lat = s.lat := rfl
@[simp] theorem setMat_phase (k : Nat) (v : Byte) : (setMat k v s).phase = s.phase := rfl
@[simp] theorem setMat_idx (k : Nat) (v : Byte) : (setMat k v s).idx = s.idx := rfl
@[simp] theorem setMat_lum (k : Nat) (v : Byte) : (setMat k v s).lum = s.lum := rfl
@[simp] theorem setMat_alpha (k : Nat) (v : Byte) : (setMat k v s).alpha = s.alpha := rfl
@[simp] theorem setMat_mat (k : Nat) (v : Byte) : (setMat k v s).mat = writeCell s.mat k v := rfl
@[simp] theorem setMat_inBuf (k : Nat) (v : Byte) : (setMat k v s).inBuf = s.inBuf := rfl
@[simp] theorem setMat_outBuf (k : Nat) (v : Byte) : (setMat k v s).outBuf = s.outBuf := rfl
@[simp] theorem setMat_readData (k : Nat) (v : Byte) : (setMat k v s).readData = s.readData := rfl
@[simp] theorem setMat_host (k : Nat) (v : Byte) : (setMat k v s).host = s.host := rfl
@[simp] theorem setMat_rngAsks (k : Nat) (v : Byte) : (setMat k v s).rngAsks = s.rngAsks := rfl
@[simp] theorem setMat_draws (k : Nat) (v : Byte) : (setMat k v s).draws = s.draws := rfl
@[simp] theorem setMat_disturbed (k : Nat) (v : Byte) :
    (setMat k v s).disturbed = s.disturbed := rfl
@[simp] theorem setMat_bufEra (k : Nat) (v : Byte) : (setMat k v s).bufEra = s.bufEra := rfl
@[simp] theorem setMat_storeEra (k : Nat) (v : Byte) : (setMat k v s).storeEra = s.storeEra := rfl
@[simp] theorem setMat_fresh (k : Nat) (v : Byte) : (setMat k v s).fresh = s.fresh := rfl

/-! ### `enterPhase` -/

@[simp] theorem enterPhase_width (ph : Phase) : (enterPhase ph s).width = s.width := rfl
@[simp] theorem enterPhase_nbytes (ph : Phase) : (enterPhase ph s).nbytes = s.nbytes := rfl
@[simp] theorem enterPhase_method (ph : Phase) : (enterPhase ph s).method = s.method := rfl
@[simp] theorem enterPhase_busy (ph : Phase) : (enterPhase ph s).busy = s.busy := rfl
@[simp] theorem enterPhase_done (ph : Phase) : (enterPhase ph s).done = s.done := rfl
@[simp] theorem enterPhase_err (ph : Phase) : (enterPhase ph s).err = s.err := rfl
@[simp] theorem enterPhase_errcode (ph : Phase) : (enterPhase ph s).errcode = s.errcode := rfl
@[simp] theorem enterPhase_lat (ph : Phase) : (enterPhase ph s).lat = s.lat := rfl
@[simp] theorem enterPhase_phase (ph : Phase) : (enterPhase ph s).phase = ph := rfl
@[simp] theorem enterPhase_idx (ph : Phase) : (enterPhase ph s).idx = 0 := rfl
@[simp] theorem enterPhase_lum (ph : Phase) : (enterPhase ph s).lum = s.lum := rfl
@[simp] theorem enterPhase_alpha (ph : Phase) : (enterPhase ph s).alpha = s.alpha := rfl
@[simp] theorem enterPhase_mat (ph : Phase) : (enterPhase ph s).mat = s.mat := rfl
@[simp] theorem enterPhase_inBuf (ph : Phase) : (enterPhase ph s).inBuf = s.inBuf := rfl
@[simp] theorem enterPhase_outBuf (ph : Phase) : (enterPhase ph s).outBuf = s.outBuf := rfl
@[simp] theorem enterPhase_readData (ph : Phase) : (enterPhase ph s).readData = s.readData := rfl
@[simp] theorem enterPhase_host (ph : Phase) : (enterPhase ph s).host = s.host := rfl
@[simp] theorem enterPhase_rngAsks (ph : Phase) : (enterPhase ph s).rngAsks = s.rngAsks := rfl
@[simp] theorem enterPhase_draws (ph : Phase) : (enterPhase ph s).draws = s.draws := rfl
@[simp] theorem enterPhase_disturbed (ph : Phase) : (enterPhase ph s).disturbed = s.disturbed := rfl
@[simp] theorem enterPhase_bufEra (ph : Phase) : (enterPhase ph s).bufEra = s.bufEra := rfl
@[simp] theorem enterPhase_storeEra (ph : Phase) : (enterPhase ph s).storeEra = s.storeEra := rfl
@[simp] theorem enterPhase_fresh (ph : Phase) : (enterPhase ph s).fresh = s.fresh := rfl

/-! ### `flagsAtStart` -/

@[simp] theorem flagsAtStart_width : (flagsAtStart s).width = s.width := rfl
@[simp] theorem flagsAtStart_nbytes : (flagsAtStart s).nbytes = s.nbytes := rfl
@[simp] theorem flagsAtStart_method : (flagsAtStart s).method = s.method := rfl
@[simp] theorem flagsAtStart_busy : (flagsAtStart s).busy = true := rfl
@[simp] theorem flagsAtStart_done : (flagsAtStart s).done = false := rfl
@[simp] theorem flagsAtStart_err : (flagsAtStart s).err = false := rfl
@[simp] theorem flagsAtStart_errcode : (flagsAtStart s).errcode = 0 := rfl
@[simp] theorem flagsAtStart_lat : (flagsAtStart s).lat = s.lat := rfl
@[simp] theorem flagsAtStart_phase : (flagsAtStart s).phase = s.phase := rfl
@[simp] theorem flagsAtStart_idx : (flagsAtStart s).idx = s.idx := rfl
@[simp] theorem flagsAtStart_lum : (flagsAtStart s).lum = s.lum := rfl
@[simp] theorem flagsAtStart_alpha : (flagsAtStart s).alpha = s.alpha := rfl
@[simp] theorem flagsAtStart_mat : (flagsAtStart s).mat = s.mat := rfl
@[simp] theorem flagsAtStart_inBuf : (flagsAtStart s).inBuf = s.inBuf := rfl
@[simp] theorem flagsAtStart_outBuf : (flagsAtStart s).outBuf = s.outBuf := rfl
@[simp] theorem flagsAtStart_readData : (flagsAtStart s).readData = s.readData := rfl
@[simp] theorem flagsAtStart_host : (flagsAtStart s).host = s.host := rfl
@[simp] theorem flagsAtStart_rngAsks : (flagsAtStart s).rngAsks = s.rngAsks := rfl
@[simp] theorem flagsAtStart_draws : (flagsAtStart s).draws = s.draws := rfl
@[simp] theorem flagsAtStart_disturbed : (flagsAtStart s).disturbed = s.disturbed := rfl
@[simp] theorem flagsAtStart_bufEra : (flagsAtStart s).bufEra = s.bufEra := rfl
@[simp] theorem flagsAtStart_storeEra : (flagsAtStart s).storeEra = s.storeEra := rfl
@[simp] theorem flagsAtStart_fresh : (flagsAtStart s).fresh = s.fresh := rfl

/-! ### `flagsAtSuccess` -/

@[simp] theorem flagsAtSuccess_width : (flagsAtSuccess s).width = s.width := rfl
@[simp] theorem flagsAtSuccess_nbytes : (flagsAtSuccess s).nbytes = s.nbytes := rfl
@[simp] theorem flagsAtSuccess_method : (flagsAtSuccess s).method = s.method := rfl
@[simp] theorem flagsAtSuccess_busy : (flagsAtSuccess s).busy = false := rfl
@[simp] theorem flagsAtSuccess_done : (flagsAtSuccess s).done = true := rfl
@[simp] theorem flagsAtSuccess_err : (flagsAtSuccess s).err = s.err := rfl
@[simp] theorem flagsAtSuccess_errcode : (flagsAtSuccess s).errcode = s.errcode := rfl
@[simp] theorem flagsAtSuccess_lat : (flagsAtSuccess s).lat = s.lat := rfl
@[simp] theorem flagsAtSuccess_phase : (flagsAtSuccess s).phase = s.phase := rfl
@[simp] theorem flagsAtSuccess_idx : (flagsAtSuccess s).idx = s.idx := rfl
@[simp] theorem flagsAtSuccess_lum : (flagsAtSuccess s).lum = s.lum := rfl
@[simp] theorem flagsAtSuccess_alpha : (flagsAtSuccess s).alpha = s.alpha := rfl
@[simp] theorem flagsAtSuccess_mat : (flagsAtSuccess s).mat = s.mat := rfl
@[simp] theorem flagsAtSuccess_inBuf : (flagsAtSuccess s).inBuf = s.inBuf := rfl
@[simp] theorem flagsAtSuccess_outBuf : (flagsAtSuccess s).outBuf = s.outBuf := rfl
@[simp] theorem flagsAtSuccess_readData : (flagsAtSuccess s).readData = s.readData := rfl
@[simp] theorem flagsAtSuccess_host : (flagsAtSuccess s).host = s.host := rfl
@[simp] theorem flagsAtSuccess_rngAsks : (flagsAtSuccess s).rngAsks = s.rngAsks := rfl
@[simp] theorem flagsAtSuccess_draws : (flagsAtSuccess s).draws = s.draws := rfl
@[simp] theorem flagsAtSuccess_disturbed : (flagsAtSuccess s).disturbed = s.disturbed := rfl
@[simp] theorem flagsAtSuccess_bufEra : (flagsAtSuccess s).bufEra = s.bufEra := rfl
@[simp] theorem flagsAtSuccess_storeEra : (flagsAtSuccess s).storeEra = s.storeEra := rfl
@[simp] theorem flagsAtSuccess_fresh : (flagsAtSuccess s).fresh = s.fresh := rfl

/-! ### `flagsAtFailure` -/

@[simp] theorem flagsAtFailure_width (f : Failure) : (flagsAtFailure f s).width = s.width := rfl
@[simp] theorem flagsAtFailure_nbytes (f : Failure) : (flagsAtFailure f s).nbytes = s.nbytes := rfl
@[simp] theorem flagsAtFailure_method (f : Failure) : (flagsAtFailure f s).method = s.method := rfl
@[simp] theorem flagsAtFailure_busy (f : Failure) : (flagsAtFailure f s).busy = false := rfl
@[simp] theorem flagsAtFailure_done (f : Failure) : (flagsAtFailure f s).done = s.done := rfl
@[simp] theorem flagsAtFailure_err (f : Failure) : (flagsAtFailure f s).err = true := rfl
@[simp] theorem flagsAtFailure_errcode (f : Failure) :
    (flagsAtFailure f s).errcode = failureCode f := rfl
@[simp] theorem flagsAtFailure_lat (f : Failure) : (flagsAtFailure f s).lat = s.lat := rfl
@[simp] theorem flagsAtFailure_phase (f : Failure) : (flagsAtFailure f s).phase = s.phase := rfl
@[simp] theorem flagsAtFailure_idx (f : Failure) : (flagsAtFailure f s).idx = s.idx := rfl
@[simp] theorem flagsAtFailure_lum (f : Failure) : (flagsAtFailure f s).lum = s.lum := rfl
@[simp] theorem flagsAtFailure_alpha (f : Failure) : (flagsAtFailure f s).alpha = s.alpha := rfl
@[simp] theorem flagsAtFailure_mat (f : Failure) : (flagsAtFailure f s).mat = s.mat := rfl
@[simp] theorem flagsAtFailure_inBuf (f : Failure) : (flagsAtFailure f s).inBuf = s.inBuf := rfl
@[simp] theorem flagsAtFailure_outBuf (f : Failure) : (flagsAtFailure f s).outBuf = s.outBuf := rfl
@[simp] theorem flagsAtFailure_readData (f : Failure) :
    (flagsAtFailure f s).readData = s.readData := rfl
@[simp] theorem flagsAtFailure_host (f : Failure) : (flagsAtFailure f s).host = s.host := rfl
@[simp] theorem flagsAtFailure_rngAsks (f : Failure) :
    (flagsAtFailure f s).rngAsks = s.rngAsks := rfl
@[simp] theorem flagsAtFailure_draws (f : Failure) : (flagsAtFailure f s).draws = s.draws := rfl
@[simp] theorem flagsAtFailure_disturbed (f : Failure) :
    (flagsAtFailure f s).disturbed = s.disturbed := rfl
@[simp] theorem flagsAtFailure_bufEra (f : Failure) : (flagsAtFailure f s).bufEra = s.bufEra := rfl
@[simp] theorem flagsAtFailure_storeEra (f : Failure) :
    (flagsAtFailure f s).storeEra = s.storeEra := rfl
@[simp] theorem flagsAtFailure_fresh (f : Failure) : (flagsAtFailure f s).fresh = s.fresh := rfl

/-! ### `beginCommand` -/

@[simp] theorem beginCommand_width (tag : BitVec 3) (w nb : Word) :
    (beginCommand tag w nb s).width = s.width := rfl
@[simp] theorem beginCommand_nbytes (tag : BitVec 3) (w nb : Word) :
    (beginCommand tag w nb s).nbytes = s.nbytes := rfl
@[simp] theorem beginCommand_method (tag : BitVec 3) (w nb : Word) :
    (beginCommand tag w nb s).method = s.method := rfl
@[simp] theorem beginCommand_busy (tag : BitVec 3) (w nb : Word) :
    (beginCommand tag w nb s).busy = true := rfl
@[simp] theorem beginCommand_done (tag : BitVec 3) (w nb : Word) :
    (beginCommand tag w nb s).done = false := rfl
@[simp] theorem beginCommand_err (tag : BitVec 3) (w nb : Word) :
    (beginCommand tag w nb s).err = false := rfl
@[simp] theorem beginCommand_errcode (tag : BitVec 3) (w nb : Word) :
    (beginCommand tag w nb s).errcode = 0 := rfl
@[simp] theorem beginCommand_lat (tag : BitVec 3) (w nb : Word) :
    (beginCommand tag w nb s).lat = { s.lat with m := tag, w := w, nb := nb } := rfl
@[simp] theorem beginCommand_phase (tag : BitVec 3) (w nb : Word) :
    (beginCommand tag w nb s).phase = .check := rfl
@[simp] theorem beginCommand_idx (tag : BitVec 3) (w nb : Word) :
    (beginCommand tag w nb s).idx = 0 := rfl
@[simp] theorem beginCommand_lum (tag : BitVec 3) (w nb : Word) :
    (beginCommand tag w nb s).lum = s.lum := rfl
@[simp] theorem beginCommand_alpha (tag : BitVec 3) (w nb : Word) :
    (beginCommand tag w nb s).alpha = s.alpha := rfl
@[simp] theorem beginCommand_mat (tag : BitVec 3) (w nb : Word) :
    (beginCommand tag w nb s).mat = s.mat := rfl
@[simp] theorem beginCommand_inBuf (tag : BitVec 3) (w nb : Word) :
    (beginCommand tag w nb s).inBuf = s.inBuf := rfl
@[simp] theorem beginCommand_outBuf (tag : BitVec 3) (w nb : Word) :
    (beginCommand tag w nb s).outBuf = s.outBuf := rfl
@[simp] theorem beginCommand_readData (tag : BitVec 3) (w nb : Word) :
    (beginCommand tag w nb s).readData = s.readData := rfl
@[simp] theorem beginCommand_host (tag : BitVec 3) (w nb : Word) :
    (beginCommand tag w nb s).host = s.host := rfl
@[simp] theorem beginCommand_rngAsks (tag : BitVec 3) (w nb : Word) :
    (beginCommand tag w nb s).rngAsks = s.rngAsks := rfl
@[simp] theorem beginCommand_draws (tag : BitVec 3) (w nb : Word) :
    (beginCommand tag w nb s).draws = s.draws := rfl
@[simp] theorem beginCommand_disturbed (tag : BitVec 3) (w nb : Word) :
    (beginCommand tag w nb s).disturbed = s.disturbed := rfl
@[simp] theorem beginCommand_bufEra (tag : BitVec 3) (w nb : Word) :
    (beginCommand tag w nb s).bufEra = s.bufEra := rfl
@[simp] theorem beginCommand_storeEra (tag : BitVec 3) (w nb : Word) :
    (beginCommand tag w nb s).storeEra = s.storeEra := rfl
@[simp] theorem beginCommand_fresh (tag : BitVec 3) (w nb : Word) :
    (beginCommand tag w nb s).fresh = s.fresh := rfl

/-! ### `forgetStores` -/

@[simp] theorem forgetStores_width : (forgetStores s).width = s.width := rfl
@[simp] theorem forgetStores_nbytes : (forgetStores s).nbytes = s.nbytes := rfl
@[simp] theorem forgetStores_method : (forgetStores s).method = s.method := rfl
@[simp] theorem forgetStores_busy : (forgetStores s).busy = s.busy := rfl
@[simp] theorem forgetStores_done : (forgetStores s).done = s.done := rfl
@[simp] theorem forgetStores_err : (forgetStores s).err = s.err := rfl
@[simp] theorem forgetStores_errcode : (forgetStores s).errcode = s.errcode := rfl
@[simp] theorem forgetStores_lat : (forgetStores s).lat = s.lat := rfl
@[simp] theorem forgetStores_phase : (forgetStores s).phase = s.phase := rfl
@[simp] theorem forgetStores_idx : (forgetStores s).idx = s.idx := rfl
@[simp] theorem forgetStores_lum : (forgetStores s).lum = [] := rfl
@[simp] theorem forgetStores_alpha : (forgetStores s).alpha = [] := rfl
@[simp] theorem forgetStores_mat : (forgetStores s).mat = [] := rfl
@[simp] theorem forgetStores_inBuf : (forgetStores s).inBuf = s.inBuf := rfl
@[simp] theorem forgetStores_outBuf : (forgetStores s).outBuf = s.outBuf := rfl
@[simp] theorem forgetStores_readData : (forgetStores s).readData = s.readData := rfl
@[simp] theorem forgetStores_host : (forgetStores s).host = s.host := rfl
@[simp] theorem forgetStores_rngAsks : (forgetStores s).rngAsks = s.rngAsks := rfl
@[simp] theorem forgetStores_draws : (forgetStores s).draws = s.draws := rfl
@[simp] theorem forgetStores_disturbed : (forgetStores s).disturbed = s.disturbed := rfl
@[simp] theorem forgetStores_bufEra : (forgetStores s).bufEra = s.bufEra := rfl
@[simp] theorem forgetStores_storeEra : (forgetStores s).storeEra = s.storeEra + 1 := rfl
@[simp] theorem forgetStores_fresh : (forgetStores s).fresh = s.fresh := rfl

/-! ### `raise` -/

@[simp] theorem raise_width (p : Params) (f : Failure) : (raise p f s).width = s.width := rfl
@[simp] theorem raise_nbytes (p : Params) (f : Failure) : (raise p f s).nbytes = s.nbytes := rfl
@[simp] theorem raise_method (p : Params) (f : Failure) : (raise p f s).method = s.method := rfl
@[simp] theorem raise_busy (p : Params) (f : Failure) : (raise p f s).busy = false := rfl
@[simp] theorem raise_done (p : Params) (f : Failure) : (raise p f s).done = s.done := rfl
@[simp] theorem raise_err (p : Params) (f : Failure) : (raise p f s).err = true := rfl
@[simp] theorem raise_errcode (p : Params) (f : Failure) :
    (raise p f s).errcode = failureCode f := rfl
@[simp] theorem raise_lat (p : Params) (f : Failure) :
    (raise p f s).lat = p.freeLatched s.fresh := rfl
@[simp] theorem raise_phase (p : Params) (f : Failure) : (raise p f s).phase = .idle := rfl
@[simp] theorem raise_idx (p : Params) (f : Failure) : (raise p f s).idx = 0 := rfl
@[simp] theorem raise_lum (p : Params) (f : Failure) : (raise p f s).lum = [] := rfl
@[simp] theorem raise_alpha (p : Params) (f : Failure) : (raise p f s).alpha = [] := rfl
@[simp] theorem raise_mat (p : Params) (f : Failure) : (raise p f s).mat = [] := rfl
@[simp] theorem raise_inBuf (p : Params) (f : Failure) : (raise p f s).inBuf = s.inBuf := rfl
@[simp] theorem raise_outBuf (p : Params) (f : Failure) : (raise p f s).outBuf = s.outBuf := rfl
@[simp] theorem raise_readData (p : Params) (f : Failure) :
    (raise p f s).readData = s.readData := rfl
@[simp] theorem raise_host (p : Params) (f : Failure) : (raise p f s).host = s.host := rfl
@[simp] theorem raise_rngAsks (p : Params) (f : Failure) : (raise p f s).rngAsks = s.rngAsks := rfl
@[simp] theorem raise_draws (p : Params) (f : Failure) : (raise p f s).draws = s.draws := rfl
@[simp] theorem raise_disturbed (p : Params) (f : Failure) : (raise p f s).disturbed = false := rfl
@[simp] theorem raise_bufEra (p : Params) (f : Failure) : (raise p f s).bufEra = s.bufEra := rfl
@[simp] theorem raise_storeEra (p : Params) (f : Failure) :
    (raise p f s).storeEra = s.storeEra + 1 := rfl
@[simp] theorem raise_fresh (p : Params) (f : Failure) : (raise p f s).fresh = s.fresh + 1 := rfl

/-! ### `freePixel` -/

@[simp] theorem freePixel_width (p : Params) (k i : Nat) :
    (freePixel p k i s).width = s.width := rfl
@[simp] theorem freePixel_nbytes (p : Params) (k i : Nat) :
    (freePixel p k i s).nbytes = s.nbytes := rfl
@[simp] theorem freePixel_method (p : Params) (k i : Nat) :
    (freePixel p k i s).method = s.method := rfl
@[simp] theorem freePixel_busy (p : Params) (k i : Nat) : (freePixel p k i s).busy = s.busy := rfl
@[simp] theorem freePixel_done (p : Params) (k i : Nat) : (freePixel p k i s).done = s.done := rfl
@[simp] theorem freePixel_err (p : Params) (k i : Nat) : (freePixel p k i s).err = s.err := rfl
@[simp] theorem freePixel_errcode (p : Params) (k i : Nat) :
    (freePixel p k i s).errcode = s.errcode := rfl
@[simp] theorem freePixel_lat (p : Params) (k i : Nat) : (freePixel p k i s).lat = s.lat := rfl
@[simp] theorem freePixel_phase (p : Params) (k i : Nat) :
    (freePixel p k i s).phase = s.phase := rfl
@[simp] theorem freePixel_idx (p : Params) (k i : Nat) : (freePixel p k i s).idx = s.idx := rfl
@[simp] theorem freePixel_lum (p : Params) (k i : Nat) : (freePixel p k i s).lum = s.lum := rfl
@[simp] theorem freePixel_alpha (p : Params) (k i : Nat) :
    (freePixel p k i s).alpha = s.alpha := rfl
@[simp] theorem freePixel_mat (p : Params) (k i : Nat) : (freePixel p k i s).mat = s.mat := rfl
@[simp] theorem freePixel_inBuf (p : Params) (k i : Nat) :
    (freePixel p k i s).inBuf = s.inBuf := rfl
@[simp] theorem freePixel_readData (p : Params) (k i : Nat) :
    (freePixel p k i s).readData = s.readData := rfl
@[simp] theorem freePixel_host (p : Params) (k i : Nat) : (freePixel p k i s).host = s.host := rfl
@[simp] theorem freePixel_rngAsks (p : Params) (k i : Nat) :
    (freePixel p k i s).rngAsks = s.rngAsks := rfl
@[simp] theorem freePixel_draws (p : Params) (k i : Nat) :
    (freePixel p k i s).draws = s.draws := rfl
@[simp] theorem freePixel_disturbed (p : Params) (k i : Nat) :
    (freePixel p k i s).disturbed = s.disturbed := rfl
@[simp] theorem freePixel_bufEra (p : Params) (k i : Nat) :
    (freePixel p k i s).bufEra = s.bufEra := rfl
@[simp] theorem freePixel_storeEra (p : Params) (k i : Nat) :
    (freePixel p k i s).storeEra = s.storeEra := rfl
@[simp] theorem freePixel_fresh (p : Params) (k i : Nat) :
    (freePixel p k i s).fresh = s.fresh := rfl

/-! ### `passCheck` -/

@[simp] theorem passCheck_width : (passCheck s).width = s.width := rfl
@[simp] theorem passCheck_nbytes : (passCheck s).nbytes = s.nbytes := rfl
@[simp] theorem passCheck_method : (passCheck s).method = s.method := rfl
@[simp] theorem passCheck_busy : (passCheck s).busy = s.busy := rfl
@[simp] theorem passCheck_done : (passCheck s).done = s.done := rfl
@[simp] theorem passCheck_err : (passCheck s).err = s.err := rfl
@[simp] theorem passCheck_errcode : (passCheck s).errcode = s.errcode := rfl
@[simp] theorem passCheck_lat :
    (passCheck s).lat = { s.lat with
        n := BitVec.ofNat 30 (pixelCount s.lat.nb.toNat)
        h := BitVec.ofNat 30 (heightOf s.lat.w.toNat s.lat.nb.toNat) } := rfl
@[simp] theorem passCheck_phase : (passCheck s).phase = .decode := rfl
@[simp] theorem passCheck_idx : (passCheck s).idx = 0 := rfl
@[simp] theorem passCheck_lum : (passCheck s).lum = s.lum := rfl
@[simp] theorem passCheck_alpha : (passCheck s).alpha = s.alpha := rfl
@[simp] theorem passCheck_mat : (passCheck s).mat = s.mat := rfl
@[simp] theorem passCheck_inBuf : (passCheck s).inBuf = s.inBuf := rfl
@[simp] theorem passCheck_outBuf : (passCheck s).outBuf = s.outBuf := rfl
@[simp] theorem passCheck_readData : (passCheck s).readData = s.readData := rfl
@[simp] theorem passCheck_host : (passCheck s).host = s.host := rfl
@[simp] theorem passCheck_rngAsks : (passCheck s).rngAsks = s.rngAsks := rfl
@[simp] theorem passCheck_draws : (passCheck s).draws = s.draws := rfl
@[simp] theorem passCheck_disturbed : (passCheck s).disturbed = s.disturbed := rfl
@[simp] theorem passCheck_bufEra : (passCheck s).bufEra = s.bufEra := rfl
@[simp] theorem passCheck_storeEra : (passCheck s).storeEra = s.storeEra := rfl
@[simp] theorem passCheck_fresh : (passCheck s).fresh = s.fresh := rfl

/-! ### `countDraw` -/

@[simp] theorem countDraw_width : (countDraw s).width = s.width := rfl
@[simp] theorem countDraw_nbytes : (countDraw s).nbytes = s.nbytes := rfl
@[simp] theorem countDraw_method : (countDraw s).method = s.method := rfl
@[simp] theorem countDraw_busy : (countDraw s).busy = s.busy := rfl
@[simp] theorem countDraw_done : (countDraw s).done = s.done := rfl
@[simp] theorem countDraw_err : (countDraw s).err = s.err := rfl
@[simp] theorem countDraw_errcode : (countDraw s).errcode = s.errcode := rfl
@[simp] theorem countDraw_lat : (countDraw s).lat = s.lat := rfl
@[simp] theorem countDraw_phase : (countDraw s).phase = s.phase := rfl
@[simp] theorem countDraw_idx : (countDraw s).idx = s.idx := rfl
@[simp] theorem countDraw_lum : (countDraw s).lum = s.lum := rfl
@[simp] theorem countDraw_alpha : (countDraw s).alpha = s.alpha := rfl
@[simp] theorem countDraw_mat : (countDraw s).mat = s.mat := rfl
@[simp] theorem countDraw_inBuf : (countDraw s).inBuf = s.inBuf := rfl
@[simp] theorem countDraw_outBuf : (countDraw s).outBuf = s.outBuf := rfl
@[simp] theorem countDraw_readData : (countDraw s).readData = s.readData := rfl
@[simp] theorem countDraw_host : (countDraw s).host = s.host := rfl
@[simp] theorem countDraw_rngAsks : (countDraw s).rngAsks = s.rngAsks := rfl
@[simp] theorem countDraw_draws : (countDraw s).draws = s.draws + 1 := rfl
@[simp] theorem countDraw_disturbed : (countDraw s).disturbed = s.disturbed := rfl
@[simp] theorem countDraw_bufEra : (countDraw s).bufEra = s.bufEra := rfl
@[simp] theorem countDraw_storeEra : (countDraw s).storeEra = s.storeEra := rfl
@[simp] theorem countDraw_fresh : (countDraw s).fresh = s.fresh := rfl

/-! ### `countAsk` -/

@[simp] theorem countAsk_width : (countAsk s).width = s.width := rfl
@[simp] theorem countAsk_nbytes : (countAsk s).nbytes = s.nbytes := rfl
@[simp] theorem countAsk_method : (countAsk s).method = s.method := rfl
@[simp] theorem countAsk_busy : (countAsk s).busy = s.busy := rfl
@[simp] theorem countAsk_done : (countAsk s).done = s.done := rfl
@[simp] theorem countAsk_err : (countAsk s).err = s.err := rfl
@[simp] theorem countAsk_errcode : (countAsk s).errcode = s.errcode := rfl
@[simp] theorem countAsk_lat : (countAsk s).lat = s.lat := rfl
@[simp] theorem countAsk_phase : (countAsk s).phase = s.phase := rfl
@[simp] theorem countAsk_idx : (countAsk s).idx = s.idx := rfl
@[simp] theorem countAsk_lum : (countAsk s).lum = s.lum := rfl
@[simp] theorem countAsk_alpha : (countAsk s).alpha = s.alpha := rfl
@[simp] theorem countAsk_mat : (countAsk s).mat = s.mat := rfl
@[simp] theorem countAsk_inBuf : (countAsk s).inBuf = s.inBuf := rfl
@[simp] theorem countAsk_outBuf : (countAsk s).outBuf = s.outBuf := rfl
@[simp] theorem countAsk_readData : (countAsk s).readData = s.readData := rfl
@[simp] theorem countAsk_host : (countAsk s).host = s.host := rfl
@[simp] theorem countAsk_rngAsks : (countAsk s).rngAsks = s.rngAsks + 1 := rfl
@[simp] theorem countAsk_draws : (countAsk s).draws = s.draws := rfl
@[simp] theorem countAsk_disturbed : (countAsk s).disturbed = s.disturbed := rfl
@[simp] theorem countAsk_bufEra : (countAsk s).bufEra = s.bufEra := rfl
@[simp] theorem countAsk_storeEra : (countAsk s).storeEra = s.storeEra := rfl
@[simp] theorem countAsk_fresh : (countAsk s).fresh = s.fresh := rfl

/-! ### `returnData` -/

@[simp] theorem returnData_width (v : Word) : (returnData v s).width = s.width := rfl
@[simp] theorem returnData_nbytes (v : Word) : (returnData v s).nbytes = s.nbytes := rfl
@[simp] theorem returnData_method (v : Word) : (returnData v s).method = s.method := rfl
@[simp] theorem returnData_busy (v : Word) : (returnData v s).busy = s.busy := rfl
@[simp] theorem returnData_done (v : Word) : (returnData v s).done = s.done := rfl
@[simp] theorem returnData_err (v : Word) : (returnData v s).err = s.err := rfl
@[simp] theorem returnData_errcode (v : Word) : (returnData v s).errcode = s.errcode := rfl
@[simp] theorem returnData_lat (v : Word) : (returnData v s).lat = s.lat := rfl
@[simp] theorem returnData_phase (v : Word) : (returnData v s).phase = s.phase := rfl
@[simp] theorem returnData_idx (v : Word) : (returnData v s).idx = s.idx := rfl
@[simp] theorem returnData_lum (v : Word) : (returnData v s).lum = s.lum := rfl
@[simp] theorem returnData_alpha (v : Word) : (returnData v s).alpha = s.alpha := rfl
@[simp] theorem returnData_mat (v : Word) : (returnData v s).mat = s.mat := rfl
@[simp] theorem returnData_inBuf (v : Word) : (returnData v s).inBuf = s.inBuf := rfl
@[simp] theorem returnData_outBuf (v : Word) : (returnData v s).outBuf = s.outBuf := rfl
@[simp] theorem returnData_readData (v : Word) : (returnData v s).readData = v := rfl
@[simp] theorem returnData_host (v : Word) : (returnData v s).host = s.host := rfl
@[simp] theorem returnData_rngAsks (v : Word) : (returnData v s).rngAsks = s.rngAsks := rfl
@[simp] theorem returnData_draws (v : Word) : (returnData v s).draws = s.draws := rfl
@[simp] theorem returnData_disturbed (v : Word) : (returnData v s).disturbed = s.disturbed := rfl
@[simp] theorem returnData_bufEra (v : Word) : (returnData v s).bufEra = s.bufEra := rfl
@[simp] theorem returnData_storeEra (v : Word) : (returnData v s).storeEra = s.storeEra := rfl
@[simp] theorem returnData_fresh (v : Word) : (returnData v s).fresh = s.fresh := rfl

/-! ### `noteDisturbance` -/

@[simp] theorem noteDisturbance_width : (noteDisturbance s).width = s.width := rfl
@[simp] theorem noteDisturbance_nbytes : (noteDisturbance s).nbytes = s.nbytes := rfl
@[simp] theorem noteDisturbance_method : (noteDisturbance s).method = s.method := rfl
@[simp] theorem noteDisturbance_busy : (noteDisturbance s).busy = s.busy := rfl
@[simp] theorem noteDisturbance_done : (noteDisturbance s).done = s.done := rfl
@[simp] theorem noteDisturbance_err : (noteDisturbance s).err = s.err := rfl
@[simp] theorem noteDisturbance_errcode : (noteDisturbance s).errcode = s.errcode := rfl
@[simp] theorem noteDisturbance_lat : (noteDisturbance s).lat = s.lat := rfl
@[simp] theorem noteDisturbance_phase : (noteDisturbance s).phase = s.phase := rfl
@[simp] theorem noteDisturbance_idx : (noteDisturbance s).idx = s.idx := rfl
@[simp] theorem noteDisturbance_lum : (noteDisturbance s).lum = s.lum := rfl
@[simp] theorem noteDisturbance_alpha : (noteDisturbance s).alpha = s.alpha := rfl
@[simp] theorem noteDisturbance_mat : (noteDisturbance s).mat = s.mat := rfl
@[simp] theorem noteDisturbance_inBuf : (noteDisturbance s).inBuf = s.inBuf := rfl
@[simp] theorem noteDisturbance_outBuf : (noteDisturbance s).outBuf = s.outBuf := rfl
@[simp] theorem noteDisturbance_readData : (noteDisturbance s).readData = s.readData := rfl
@[simp] theorem noteDisturbance_host : (noteDisturbance s).host = s.host := rfl
@[simp] theorem noteDisturbance_rngAsks : (noteDisturbance s).rngAsks = s.rngAsks := rfl
@[simp] theorem noteDisturbance_draws : (noteDisturbance s).draws = s.draws := rfl
@[simp] theorem noteDisturbance_disturbed :
    (noteDisturbance s).disturbed = (s.disturbed || s.busy) := rfl
@[simp] theorem noteDisturbance_bufEra : (noteDisturbance s).bufEra = s.bufEra := rfl
@[simp] theorem noteDisturbance_storeEra : (noteDisturbance s).storeEra = s.storeEra := rfl
@[simp] theorem noteDisturbance_fresh : (noteDisturbance s).fresh = s.fresh := rfl

end Sys2Proof.Machine
end

