-- ==== Sys2Proof/Laws/Ops.lean ====
section
/-! SUPPORT. Laws/Ops.lean: one lemma for each shared operation that says once everything it can do:
the shape check, the start, the two ends of a command, the random source, the sequencer's moves. -/

namespace Sys2Proof.Machine

variable {p : Params} {s : State}

/-- CHECK passes exactly the shapes of R54 that fit MAXPIX. -/
theorem checkShape_none_iff {w nb : Nat} :
    checkShape p w nb = none ↔
      1 ≤ w ∧ 4 * w ≤ nb ∧ nb % (4 * w) = 0 ∧ nb / 4 ≤ p.maxPix := by
  unfold checkShape
  constructor
  · intro h
    split at h
    · cases h
    · split at h
      · cases h
      · split at h
        · cases h
        · split at h
          · cases h
          · next h1 h2 h3 h4 =>
            refine ⟨by omega, ?_, by omega, by omega⟩
            exact Nat.le_of_dvd (by omega) (Nat.dvd_of_mod_eq_zero (by omega))
  · rintro ⟨h1, h2, h3, h4⟩
    rw [if_neg (by omega), if_neg (by omega), if_neg (by omega), if_neg (by omega)]

/-- The only failure of CHECK. -/
theorem checkShape_some {w nb : Nat} {f : Failure} (h : checkShape p w nb = some f) :
    f = .invalidImageShape := by
  unfold checkShape at h
  repeat (first | (split at h) | (cases h; rfl) | cases h)

/-- What CHECK does: the rest of the command runs from a passed CHECK, or the command fails. -/
theorem runCheck_cases (p : Params) (rest : State → State) (s : State) :
    (checkShape p s.lat.w.toNat s.lat.nb.toNat = none ∧ runCheck p rest s = rest (passCheck s)) ∨
    (checkShape p s.lat.w.toNat s.lat.nb.toNat ≠ none ∧
      runCheck p rest s = raise p .invalidImageShape s) := by
  unfold runCheck
  cases h : checkShape p s.lat.w.toNat s.lat.nb.toNat with
  | none => exact Or.inl ⟨rfl, rfl⟩
  | some f => exact Or.inr ⟨by simp, by rw [checkShape_some h]⟩

/-- After a passed CHECK the latched operands are consistent (R193). -/
theorem passCheck_latched (h : checkShape p s.lat.w.toNat s.lat.nb.toNat = none) :
    (passCheck s).lat.n.toNat = s.lat.nb.toNat / 4 ∧
      (passCheck s).lat.h.toNat = s.lat.nb.toNat / 4 / s.lat.w.toNat ∧
      s.lat.nb.toNat = 4 * (s.lat.nb.toNat / 4) ∧
      s.lat.nb.toNat / 4 = s.lat.w.toNat * (s.lat.nb.toNat / 4 / s.lat.w.toNat) ∧
      1 ≤ s.lat.nb.toNat / 4 := by
  obtain ⟨h1, h2, h3, -⟩ := checkShape_none_iff.mp h
  obtain ⟨k, hk⟩ := Nat.dvd_of_mod_eq_zero h3
  have hlt : s.lat.nb.toNat < 2 ^ 32 := s.lat.nb.isLt
  have hk' : s.lat.nb.toNat / 4 = s.lat.w.toNat * k := by
    rw [hk, Nat.mul_assoc]; exact Nat.mul_div_cancel_left _ (by norm_num)
  have hkk : s.lat.nb.toNat / 4 / s.lat.w.toNat = k := by
    rw [hk']; exact Nat.mul_div_cancel_left _ (by omega)
  have hn : s.lat.nb.toNat / 4 < 2 ^ 30 := by omega
  have hle : s.lat.nb.toNat / 4 / s.lat.w.toNat ≤ s.lat.nb.toNat / 4 := Nat.div_le_self _ _
  refine ⟨?_, ?_, by rw [hk', hk]; ring, by rw [hkk]; exact hk', by omega⟩
  · simp only [passCheck_lat, pixelCount, BitVec.toNat_ofNat]
    exact Nat.mod_eq_of_lt hn
  · simp only [passCheck_lat, heightOf, pixelCount, BitVec.toNat_ofNat]
    exact Nat.mod_eq_of_lt (lt_of_le_of_lt hle hn)

/-- Freeing a pixel changes OUT and nothing else. -/
theorem freePixel_eq (p : Params) (k i : Nat) (s : State) :
    freePixel p k i s = { s with outBuf := (freePixel p k i s).outBuf } := rfl

/-- Freeing a pixel changes its four bytes. -/
theorem readCell_freePixel (p : Params) (k i : Nat) (s : State) (a : Nat) :
    readCell (freePixel p k i s).outBuf a =
      if a / 4 = i then some (p.freeResult k a) else readCell s.outBuf a := by
  simp only [freePixel, setOut_outBuf, readCell_writeCell, byteAddr]
  by_cases h3 : a = 4 * i + 3
  · rw [if_pos h3, if_pos (by omega), h3]
  by_cases h2 : a = 4 * i + 2
  · rw [if_neg h3, if_pos h2, if_pos (by omega), h2]
  by_cases h1 : a = 4 * i + 1
  · rw [if_neg h3, if_neg h2, if_pos h1, if_pos (by omega), h1]
  by_cases h0 : a = 4 * i + 0
  · rw [if_neg h3, if_neg h2, if_neg h1, if_pos h0, if_pos (by omega), h0]
  · rw [if_neg h3, if_neg h2, if_neg h1, if_neg h0, if_neg (by omega)]

/-- Settling the result changes OUT in the unspecified pixels of the image, the counter of free values,
and nothing else (R67, R219). -/
theorem settleResult_spec (p : Params) (s : State) :
    settleResult p s = { s with outBuf := (settleResult p s).outBuf, fresh := s.fresh + 1 } ∧
      (∀ a, readCell (settleResult p s).outBuf a =
        if a / 4 < s.lat.n.toNat ∧ resultSpecified s (a / 4) = false then
          some (p.freeResult s.fresh a)
        else readCell s.outBuf a) := by
  have h := forRange_induct
    (f := fun i t => if resultSpecified s i then t else freePixel p s.fresh i t) (start := 0)
    (count := s.lat.n.toNat) (s := s)
    (P := fun i t => t = { s with outBuf := t.outBuf } ∧ ∀ a, readCell t.outBuf a =
      if a / 4 < i ∧ resultSpecified s (a / 4) = false then some (p.freeResult s.fresh a)
      else readCell s.outBuf a)
    ⟨rfl, by simp⟩
    (fun i t _ _ ht => by
      cases hr : resultSpecified s i with
      | true =>
        refine ⟨ht.1, fun a => (ht.2 a).trans (if_congr ?_ rfl rfl)⟩
        refine and_congr_left fun ha => ⟨fun h => by omega, fun h => ?_⟩
        rcases Nat.lt_succ_iff_lt_or_eq.mp h with h | h
        · exact h
        · rw [h, hr] at ha; cases ha
      | false =>
        refine ⟨?_, fun a => ?_⟩
        · simp only [if_neg Bool.false_ne_true]
          rw [freePixel_eq]
          conv_lhs => rw [ht.1]
          rfl
        · simp only [if_neg Bool.false_ne_true]
          rw [readCell_freePixel, ht.2 a]
          by_cases ha : a / 4 = i
          · rw [if_pos ha, if_pos ⟨by omega, ha ▸ hr⟩]
          · rw [if_neg ha]
            exact if_congr (and_congr_left fun _ => by omega) rfl rfl)
  rw [Nat.zero_add] at h
  refine ⟨?_, h.2⟩
  unfold settleResult
  conv_lhs => rw [h.1]

/-- What a successful end does: the flags, the sequencer, the stores, and OUT where the result is
unspecified (R29, R67, R219). -/
theorem endSuccess_eq (p : Params) (s : State) :
    endSuccess p s =
      { s with
        busy := false, done := true, phase := .idle, idx := 0, lum := [], alpha := [], mat := [],
        storeEra := s.storeEra + 1, disturbed := false,
        outBuf := (settleResult p s).outBuf, fresh := s.fresh + 1 } := by
  unfold endSuccess
  conv_lhs => rw [(settleResult_spec p s).1]
  rfl

/-- A byte of OUT after a successful end (R29, R67, R219). -/
theorem readCell_endSuccess (p : Params) (s : State) (a : Nat) :
    readCell (endSuccess p s).outBuf a =
      if a / 4 < s.lat.n.toNat ∧ resultSpecified s (a / 4) = false then
        some (p.freeResult s.fresh a)
      else readCell s.outBuf a := by
  rw [endSuccess_eq]; exact (settleResult_spec p s).2 a

/-- What asking the random source does (R148, R149, R194). -/
theorem askRandomSource_cases (p : Params) (rest : State → State) (s : State) :
    (p.rngOk s.rngAsks = true ∧ askRandomSource p rest s = rest (countAsk s)) ∨
    (p.rngOk s.rngAsks = false ∧
      askRandomSource p rest s = raise p .randomSourceUnavailable (countAsk s)) := by
  unfold askRandomSource
  cases h : p.rngOk s.rngAsks <;> simp

/-- How the sequencer moves on (R31). -/
theorem advance_cases (limit : Nat) (leave : State → State) (s : State) :
    (s.idx.toNat + 1 < limit ∧ advance limit leave s = { s with idx := s.idx + 1 }) ∨
    (limit ≤ s.idx.toNat + 1 ∧ advance limit leave s = leave s) := by
  unfold advance
  by_cases h : s.idx.toNat + 1 < limit
  · exact Or.inl ⟨h, if_pos h⟩
  · exact Or.inr ⟨by omega, if_neg h⟩

/-- What one move of the host can do. -/
theorem hostMove_cases {m : HostMove} {o : Host.Outcome State Fault Refusal}
    (h : hostMove p m s = o) :
    (∃ r v, m = .writeReg r v ∧ o = .next (writeRegister r v s)) ∨
    (∃ r, m = .readReg r ∧ o = .next (returnData (readRegister s r) s)) ∨
    (∃ a v, m = .writeIn a v ∧ a < 4 * p.maxPix ∧ o = .next (noteDisturbance (setIn a v s))) ∨
    (∃ a, m = .readIn a ∧ a < 4 * p.maxPix ∧
      o = .next (returnData ((inByte p s a).setWidth 32) s)) ∨
    (∃ a v, m = .writeOut a v ∧ a < 4 * p.maxPix ∧ o = .next (noteDisturbance (setOut a v s))) ∨
    (∃ a, m = .readOut a ∧ a < 4 * p.maxPix ∧ o = .next (readOutByte p a s)) ∨
    (m = .reset ∧ o = .next (resetBlock s)) ∨
    (m = .wait ∧ o = .next s) ∨
    (m = .tick ∧ o = .next (seqStep p s)) ∨
    ((∃ a v, (m = .writeIn a v ∨ m = .writeOut a v ∨ m = .readIn a ∨ m = .readOut a) ∧
      4 * p.maxPix ≤ a) ∧ o = .fault .addressOutsideBuffer) := by
  subst h
  have key : ∀ (a : Nat) (t : State),
      (a < 4 * p.maxPix ∧ atAddress p a t = .next t) ∨
      (4 * p.maxPix ≤ a ∧ atAddress p a t = .fault .addressOutsideBuffer) := fun a t => by
    unfold atAddress
    by_cases h : a < 4 * p.maxPix
    · exact Or.inl ⟨h, if_pos h⟩
    · exact Or.inr ⟨by omega, if_neg h⟩
  cases m with
  | writeReg r v => exact Or.inl ⟨r, v, rfl, rfl⟩
  | readReg r => exact Or.inr (Or.inl ⟨r, rfl, rfl⟩)
  | writeIn a v =>
    rcases key a (noteDisturbance (setIn a v s)) with ⟨h, e⟩ | ⟨h, e⟩
    · exact Or.inr (Or.inr (Or.inl ⟨a, v, rfl, h, e⟩))
    · refine Or.inr (Or.inr (Or.inr (Or.inr (Or.inr (Or.inr (Or.inr (Or.inr (Or.inr ⟨?_, e⟩))))))))
      exact ⟨a, v, by simp, h⟩
  | readIn a =>
    rcases key a (returnData ((inByte p s a).setWidth 32) s) with ⟨h, e⟩ | ⟨h, e⟩
    · exact Or.inr (Or.inr (Or.inr (Or.inl ⟨a, rfl, h, e⟩)))
    · refine Or.inr (Or.inr (Or.inr (Or.inr (Or.inr (Or.inr (Or.inr (Or.inr (Or.inr ⟨?_, e⟩))))))))
      exact ⟨a, 0, by simp, h⟩
  | writeOut a v =>
    rcases key a (noteDisturbance (setOut a v s)) with ⟨h, e⟩ | ⟨h, e⟩
    · exact Or.inr (Or.inr (Or.inr (Or.inr (Or.inl ⟨a, v, rfl, h, e⟩))))
    · refine Or.inr (Or.inr (Or.inr (Or.inr (Or.inr (Or.inr (Or.inr (Or.inr (Or.inr ⟨?_, e⟩))))))))
      exact ⟨a, v, by simp, h⟩
  | readOut a =>
    rcases key a (readOutByte p a s) with ⟨h, e⟩ | ⟨h, e⟩
    · exact Or.inr (Or.inr (Or.inr (Or.inr (Or.inr (Or.inl ⟨a, rfl, h, e⟩)))))
    · refine Or.inr (Or.inr (Or.inr (Or.inr (Or.inr (Or.inr (Or.inr (Or.inr (Or.inr ⟨?_, e⟩))))))))
      exact ⟨a, 0, by simp, h⟩
  | reset => simp [hostMove]
  | wait => simp [hostMove]
  | tick => simp [hostMove]

end Sys2Proof.Machine
end

