-- ==== Sys2Proof/Laws/Phases.lean ====
section
/-! SUPPORT. Laws/Phases.lean: what each phase of a command does: the fields it writes (the frame: the
state after is the state before with those fields replaced) and what they then hold. Loops are stated
from any start index. -/

namespace Sys2Proof.Machine

variable {p : Params}

/-! ### DECODE -/

/-- DECODE writes LUM and ALPHA of the pixels in its range, from IN, and nothing else (R105). -/
theorem decodeLoop_spec (count start : Nat) (s : State) :
    ∃ l a, forRange (decodePixel p) count start s = { s with lum := l, alpha := a } ∧
      (∀ j, readCell l j =
        if start ≤ j ∧ j < start + count then some (pixelLum p s j) else readCell s.lum j) ∧
      (∀ j, readCell a j =
        if start ≤ j ∧ j < start + count then some (pixelAlpha p s j) else readCell s.alpha j) := by
  refine forRange_induct (f := decodePixel p) (s := s)
    (P := fun i t => ∃ l a, t = { s with lum := l, alpha := a } ∧
      (∀ j, readCell l j =
        if start ≤ j ∧ j < i then some (pixelLum p s j) else readCell s.lum j) ∧
      (∀ j, readCell a j =
        if start ≤ j ∧ j < i then some (pixelAlpha p s j) else readCell s.alpha j)) ?_ ?_
  · exact ⟨s.lum, s.alpha, rfl, fun j => by rw [if_neg (by omega)], fun j => by rw [if_neg (by omega)]⟩
  · rintro i _ h1 _ ⟨l, a, rfl, hl, ha⟩
    refine ⟨writeCell l i (pixelLum p s i), writeCell a i (pixelAlpha p s i), rfl, fun j => ?_,
      fun j => ?_⟩
    · rw [readCell_writeCell, hl j]
      by_cases hj : j = i
      · subst hj; rw [if_pos rfl, if_pos (by omega)]
      · rw [if_neg hj]; exact if_congr (by omega) rfl rfl
    · rw [readCell_writeCell, ha j]
      by_cases hj : j = i
      · subst hj; rw [if_pos rfl, if_pos (by omega)]
      · rw [if_neg hj]; exact if_congr (by omega) rfl rfl

/-! ### ENCODE -/

/-- The byte ENCODE stores at address `a` (R112). -/
def encodedByte (p : Params) (s : State) (a : Nat) : Byte :=
  if a % 4 = 3 then alphaAt p s (a / 4) else grayByte p (lumAt p s (a / 4))

/-- One pixel of ENCODE writes its four bytes of OUT and nothing else. -/
theorem encodePixel_spec (i : Nat) (s : State) :
    ∃ o, encodePixel p i s = { s with outBuf := o } ∧
      ∀ a, readCell o a =
        if 4 * i ≤ a ∧ a < 4 * i + 4 then some (encodedByte p s a) else readCell s.outBuf a := by
  refine ⟨(encodePixel p i s).outBuf, rfl, fun a => ?_⟩
  simp only [encodePixel, setOut_outBuf, readCell_writeCell, byteAddr, Nat.add_zero]
  by_cases h3 : a = 4 * i + 3
  · subst h3
    rw [if_pos rfl, if_pos (by omega), encodedByte, if_pos (by omega)]
    congr 2; omega
  · rw [if_neg h3]
    by_cases hr : 4 * i ≤ a ∧ a < 4 * i + 4
    · have e3 : ¬a % 4 = 3 := by omega
      rw [if_pos hr, encodedByte, if_neg e3, show a / 4 = i by omega]
      have : a = 4 * i + 2 ∨ a = 4 * i + 1 ∨ a = 4 * i := by omega
      rcases this with rfl | rfl | rfl <;> simp
    · rw [if_neg (by omega), if_neg (by omega), if_neg (by omega), if_neg hr]

/-- ENCODE writes the bytes of OUT of the pixels in its range and nothing else (R112, R58). -/
theorem encodeLoop_spec (count start : Nat) (s : State) :
    ∃ o, forRange (encodePixel p) count start s = { s with outBuf := o } ∧
      ∀ a, readCell o a =
        if 4 * start ≤ a ∧ a < 4 * (start + count) then some (encodedByte p s a)
        else readCell s.outBuf a := by
  refine forRange_induct (f := encodePixel p) (s := s)
    (P := fun i t => ∃ o, t = { s with outBuf := o } ∧
      ∀ a, readCell o a =
        if 4 * start ≤ a ∧ a < 4 * i then some (encodedByte p s a) else readCell s.outBuf a) ?_ ?_
  · exact ⟨s.outBuf, rfl, fun a => by rw [if_neg (by omega)]⟩
  · rintro i _ h1 _ ⟨o, rfl, ho⟩
    obtain ⟨o', e, ho'⟩ := encodePixel_spec (p := p) i { s with outBuf := o }
    refine ⟨o', e, fun a => ?_⟩
    rw [ho' a, show encodedByte p { s with outBuf := o } a = encodedByte p s a from rfl]
    by_cases hr : 4 * i ≤ a ∧ a < 4 * i + 4
    · rw [if_pos hr, if_pos (by omega)]
    · rw [if_neg hr]; exact (ho a).trans (if_congr (by omega) rfl rfl)

/-! ### BUILD -/

/-- BUILD writes the entries of MAT in its range and nothing else (R128). -/
theorem buildLoop_spec (n count start : Nat) (s : State) :
    ∃ m, forRange (buildEntry n) count start s = { s with mat := m } ∧
      ∀ k, readCell m k =
        if start ≤ k ∧ k < start + count then
          some (BitVec.ofNat 8 (bayerEntry n (k / sideOf n) (k % sideOf n)))
        else readCell s.mat k := by
  refine forRange_induct (f := buildEntry n) (s := s)
    (P := fun i t => ∃ m, t = { s with mat := m } ∧
      ∀ k, readCell m k =
        if start ≤ k ∧ k < i then
          some (BitVec.ofNat 8 (bayerEntry n (k / sideOf n) (k % sideOf n)))
        else readCell s.mat k) ?_ ?_
  · exact ⟨s.mat, rfl, fun a => by rw [if_neg (by omega)]⟩
  · rintro i _ h1 _ ⟨m, rfl, hm⟩
    refine ⟨writeCell m i _, rfl, fun k => ?_⟩
    rw [readCell_writeCell, hm k]
    by_cases hj : k = i
    · subst hj; rw [if_pos rfl, if_pos (by omega)]
    · rw [if_neg hj]; exact if_congr (by omega) rfl rfl

/-! ### The pointwise kernels -/

/-- A kernel that replaces each pixel's luminance by a function of that luminance and the pixel's
index, which may look at the other fields of the state before the phase. -/
theorem pointwiseLoop_spec {f : Nat → State → State} (v : Nat → FmtVal → FmtVal) (s : State)
    (hf : ∀ i l, f i { s with lum := l } =
      setLum i (v i (lumAt p { s with lum := l } i)) { s with lum := l })
    (count start : Nat) :
    ∃ l, forRange f count start s = { s with lum := l } ∧
      ∀ j, readCell l j =
        if start ≤ j ∧ j < start + count then some (v j (lumAt p s j)) else readCell s.lum j := by
  refine forRange_induct (f := f) (s := s)
    (P := fun i t => ∃ l, t = { s with lum := l } ∧
      ∀ j, readCell l j =
        if start ≤ j ∧ j < i then some (v j (lumAt p s j)) else readCell s.lum j) ?_ ?_
  · exact ⟨s.lum, rfl, fun a => by rw [if_neg (by omega)]⟩
  · rintro i _ h1 _ ⟨l, rfl, hl⟩
    have he : lumAt p { s with lum := l } i = lumAt p s i := by
      show (readCell l i).getD _ = (readCell s.lum i).getD _
      rw [hl i, if_neg (by omega)]
    refine ⟨writeCell l i (v i (lumAt p s i)), by rw [hf i l, he]; rfl, fun j => ?_⟩
    rw [readCell_writeCell, hl j]
    by_cases hj : j = i
    · subst hj; rw [if_pos rfl, if_pos (by omega)]
    · rw [if_neg hj]; exact if_congr (by omega) rfl rfl

/-- The Quantise kernel (R142). -/
theorem quantiseLoop_spec (count start : Nat) (s : State) :
    ∃ l, forRange (quantisePixel p) count start s = { s with lum := l } ∧
      ∀ j, readCell l j =
        if start ≤ j ∧ j < start + count then some (thr (lumAt p s j) (k0_5 p.fmt))
        else readCell s.lum j :=
  pointwiseLoop_spec (fun _ x => thr x (k0_5 p.fmt)) s (fun _ _ => rfl) count start

/-- The Bayer kernel (R155). -/
theorem bayerLoop_spec (n count start : Nat) (s : State) :
    ∃ l, forRange (bayerPixel p n) count start s = { s with lum := l } ∧
      ∀ j, readCell l j =
        if start ≤ j ∧ j < start + count then some (thr (lumAt p s j) (bayerThreshold p n j s))
        else readCell s.lum j :=
  pointwiseLoop_spec (fun i x => thr x (bayerThreshold p n i s)) s (fun _ _ => rfl) count start

/-- The WhiteNoise kernel: one draw a pixel, in pixel order (R148, R150, R229). -/
theorem whiteNoiseLoop_spec (count start : Nat) (s : State) :
    ∃ l, forRange (whiteNoisePixel p) count start s =
        { s with lum := l, draws := s.draws + count } ∧
      ∀ j, readCell l j =
        if start ≤ j ∧ j < start + count then
          some (thr (lumAt p s j) (p.draw (s.draws + (j - start))))
        else readCell s.lum j := by
  have h := forRange_induct (f := whiteNoisePixel p) (count := count) (start := start) (s := s)
    (P := fun i t => ∃ l, t = { s with lum := l, draws := s.draws + (i - start) } ∧
      ∀ j, readCell l j =
        if start ≤ j ∧ j < i then some (thr (lumAt p s j) (p.draw (s.draws + (j - start))))
        else readCell s.lum j) ?_ ?_
  · simpa using h
  · exact ⟨s.lum, by simp, fun a => by rw [if_neg (by omega)]⟩
  · rintro i _ h1 _ ⟨l, rfl, hl⟩
    have he : ∀ d, lumAt p { s with lum := l, draws := d } i = lumAt p s i := fun d => by
      show (readCell l i).getD _ = (readCell s.lum i).getD _
      rw [hl i, if_neg (by omega)]
    refine ⟨writeCell l i (thr (lumAt p s i) (p.draw (s.draws + (i - start)))), ?_, fun j => ?_⟩
    · rw [whiteNoisePixel, he, show i + 1 - start = (i - start) + 1 by omega]
      rfl
    · rw [readCell_writeCell, hl j]
      by_cases hj : j = i
      · subst hj; rw [if_pos rfl, if_pos (by omega)]
      · rw [if_neg hj]; exact if_congr (by omega) rfl rfl

/-- The Grayscale kernel does nothing (R141). -/
theorem grayscaleLoop_spec (count start : Nat) (s : State) :
    forRange grayscalePixel count start s = s :=
  forRange_induct (f := grayscalePixel) (P := fun _ t => t = s) rfl fun _ _ _ _ h => h

/-! ### The error-diffusion kernel -/

/-- Adding to one entry of LUM changes that entry and nothing else (R171, R175). -/
theorem addLumIf_spec (c : Bool) (j : Nat) (v : FmtVal) (s : State) :
    ∃ l, addLumIf p c j v s = { s with lum := l } ∧
      ∀ k, readCell l k =
        if c = true ∧ k = j then some (addF p.fmt (lumAt p s j) v) else readCell s.lum k := by
  unfold addLumIf
  cases c
  · exact ⟨s.lum, rfl, fun k => by simp⟩
  · exact ⟨writeCell s.lum j _, rfl, fun k => by simp [readCell_writeCell]⟩

/-- Distributing an error changes LUM and nothing else. -/
theorem diffuse_only (i : Nat) (e : FmtVal) (s : State) :
    ∃ l, diffuse p i e s = { s with lum := l } := by
  obtain ⟨l₁, e₁, -⟩ := addLumIf_spec (p := p)
    (decide (colOf s.lat.w.toNat i + 1 < s.lat.w.toNat)) (i + 1) (wt p e 7) s
  unfold diffuse
  simp only
  rw [e₁]
  obtain ⟨l₂, e₂, -⟩ := addLumIf_spec (p := p)
    (decide (0 < colOf s.lat.w.toNat i) && decide (rowOf s.lat.w.toNat i + 1 < s.lat.h.toNat))
    (i + s.lat.w.toNat - 1) (wt p e 3) { s with lum := l₁ }
  rw [e₂]
  obtain ⟨l₃, e₃, -⟩ := addLumIf_spec (p := p)
    (decide (rowOf s.lat.w.toNat i + 1 < s.lat.h.toNat))
    (i + s.lat.w.toNat) (wt p e 5) { s with lum := l₂ }
  rw [e₃]
  obtain ⟨l₄, e₄, -⟩ := addLumIf_spec (p := p)
    (decide (colOf s.lat.w.toNat i + 1 < s.lat.w.toNat) &&
      decide (rowOf s.lat.w.toNat i + 1 < s.lat.h.toNat))
    (i + s.lat.w.toNat + 1) (wt p e 1) { s with lum := l₃ }
  exact ⟨l₄, e₄⟩

/-- One step of FloydSteinberg changes LUM and nothing else (R171). -/
theorem floydSteinbergPixel_only (i : Nat) (s : State) :
    ∃ l, floydSteinbergPixel p i s = { s with lum := l } := by
  obtain ⟨l, e⟩ := diffuse_only (p := p) i
    (subF p.fmt (lumAt p s i) (thr (lumAt p s i) (k0_5 p.fmt)))
    (setLum i (thr (lumAt p s i) (k0_5 p.fmt)) s)
  exact ⟨l, e⟩

/-- The FloydSteinberg kernel changes LUM and nothing else. -/
theorem floydSteinbergLoop_only (count start : Nat) (s : State) :
    ∃ l, forRange (floydSteinbergPixel p) count start s = { s with lum := l } := by
  refine forRange_induct (f := floydSteinbergPixel p) (s := s)
    (P := fun _ t => ∃ l, t = { s with lum := l }) ⟨s.lum, rfl⟩ ?_
  rintro i _ _ _ ⟨l, rfl⟩
  exact floydSteinbergPixel_only (p := p) i { s with lum := l }

end Sys2Proof.Machine
end

