-- ==== Sys2Proof/Laws/Commands.lean ====
section
/-! SUPPORT. Laws/Commands.lean: a command as a whole: every meaning is one run of the sequencer from
CHECK, and what that run leaves, in terms of what the kernel leaves in LUM. -/

namespace Sys2Proof.Machine

variable {p : Params}

@[simp] theorem decodePhase_lat (s : State) : (decodePhase p s).lat = s.lat :=
  pixelLoop_keeps State.lat fun _ _ => rfl

@[simp] theorem buildPhase_lat (n : Nat) (s : State) : (buildPhase n s).lat = s.lat :=
  forRange_keeps State.lat fun _ _ => rfl

/-- The rest of a command that is not a Bayer command, from DECODE on (R31). -/
theorem resumeDecode_plain {s : State} (h : isBayer s.lat.m = false) :
    resumeDecode p s = resumeKernel p (enterPhase .kernel (decodePhase p s)) := by
  simp [resumeDecode, leaveDecode, h]

/-- The rest of a Bayer command, from DECODE on (R31). -/
theorem resumeDecode_bayer {s : State} (h : isBayer s.lat.m = true) :
    resumeDecode p s =
      resumeKernel p (enterPhase .kernel
        (buildPhase (bayerOrder s.lat.m) (enterPhase .build (decodePhase p s)))) := by
  simp [resumeDecode, leaveDecode, h, resumeBuild]

/-- From KERNEL on, every command but WhiteNoise (R31). -/
theorem resumeKernel_plain {s : State} (h : s.lat.m ≠ 0b010#3) :
    resumeKernel p s = kernelAndEncode p (kernelPixel p s.lat.m) s := by
  simp [resumeKernel, startKernel, h]

/-- From the start of KERNEL on, WhiteNoise (R148). -/
theorem resumeKernel_whiteNoise {s : State} (h : s.lat.m = 0b010#3) (hi : s.idx = 0) :
    resumeKernel p s = askRandomSource p (kernelAndEncode p (whiteNoisePixel p)) s := by
  unfold resumeKernel startKernel
  rw [if_pos ⟨h, hi⟩]
  have hk : ∀ t : State, t.lat.m = 0b010#3 →
      kernelAndEncode p (kernelPixel p t.lat.m) t = kernelAndEncode p (whiteNoisePixel p) t :=
    fun t ht => by rw [ht]; rfl
  rcases askRandomSource_cases p (fun s₁ => kernelAndEncode p (kernelPixel p s₁.lat.m) s₁) s with
    ⟨h1, h2⟩ | ⟨h1, h2⟩ <;>
  rcases askRandomSource_cases p (kernelAndEncode p (whiteNoisePixel p)) s with
    ⟨h3, h4⟩ | ⟨h3, h4⟩
  · rw [h2, h4]; exact hk _ h
  · rw [h1] at h3; cases h3
  · rw [h1] at h3; cases h3
  · rw [h2, h4]

/-- Two continuations that agree on a passed CHECK give the same command. -/
theorem runCheck_congr {rest rest' : State → State} {s : State}
    (h : rest (passCheck s) = rest' (passCheck s)) : runCheck p rest s = runCheck p rest' s := by
  unfold runCheck
  cases checkShape p s.lat.w.toNat s.lat.nb.toNat with
  | none => exact h
  | some f => rfl

@[simp] theorem passCheck_beginCommand_m (tag : BitVec 3) (w nb : Word) (s : State) :
    (passCheck (beginCommand tag w nb s)).lat.m = tag := rfl

/-- The commands without BUILD and without the random source are runs of the sequencer. -/
theorem plainCommand_eq_run (tag : BitVec 3) (kernel : Nat → State → State) (w nb : Word)
    (s : State) (hb : isBayer tag = false) (hm : tag ≠ 0b010#3) (hk : kernelPixel p tag = kernel) :
    runCheck p (fun s₁ => kernelAndEncode p kernel (enterPhase .kernel (decodePhase p s₁)))
      (beginCommand tag w nb s) = runCheck p (resumeDecode p) (beginCommand tag w nb s) := by
  refine runCheck_congr ?_
  rw [resumeDecode_plain (by rw [passCheck_beginCommand_m]; exact hb), resumeKernel_plain]
  · rw [enterPhase_lat, decodePhase_lat, passCheck_beginCommand_m, hk]
  · rw [enterPhase_lat, decodePhase_lat, passCheck_beginCommand_m]; exact hm

/-- The Bayer commands are runs of the sequencer. -/
theorem bayerCommand_eq_run (tag : BitVec 3) (n : Nat) (w nb : Word) (s : State)
    (hb : isBayer tag = true) (hm : tag ≠ 0b010#3) (hn : bayerOrder tag = n)
    (hk : kernelPixel p tag = bayerPixel p n) :
    bayerCommand p tag n w nb s = runCheck p (resumeDecode p) (beginCommand tag w nb s) := by
  refine runCheck_congr ?_
  rw [resumeDecode_bayer (by rw [passCheck_beginCommand_m]; exact hb), resumeKernel_plain]
  · rw [enterPhase_lat, buildPhase_lat, enterPhase_lat, decodePhase_lat, passCheck_beginCommand_m,
      hk, hn]
  · rw [enterPhase_lat, buildPhase_lat, enterPhase_lat, decodePhase_lat, passCheck_beginCommand_m]
    exact hm

/-- The rest of WhiteNoise from DECODE on. -/
theorem resumeDecode_whiteNoise {s : State} (h : s.lat.m = 0b010#3) :
    resumeDecode p s = askRandomSource p (kernelAndEncode p (whiteNoisePixel p))
      (enterPhase .kernel (decodePhase p s)) := by
  have hb : isBayer s.lat.m = false := by rw [h]; decide
  rw [resumeDecode_plain hb]
  refine resumeKernel_whiteNoise ?_ (enterPhase_idx _ _)
  rw [enterPhase_lat, decodePhase_lat, h]

/-- WhiteNoise is a run of the sequencer. -/
theorem whiteNoiseCommand_eq_run (w nb : Word) (s : State) :
    whiteNoiseCommand p w nb s =
      runCheck p (resumeDecode p) (beginCommand 0b010#3 w nb s) :=
  runCheck_congr (resumeDecode_whiteNoise (passCheck_beginCommand_m _ w nb s)).symm

theorem kernelPixel_grayscale : kernelPixel p 0b000#3 = grayscalePixel := by simp [kernelPixel]
theorem kernelPixel_quantise : kernelPixel p 0b001#3 = quantisePixel p := by simp [kernelPixel]
theorem kernelPixel_whiteNoise : kernelPixel p 0b010#3 = whiteNoisePixel p := by simp [kernelPixel]
theorem kernelPixel_bayer0 : kernelPixel p 0b011#3 = bayerPixel p 0 := by
  simp [kernelPixel, bayerOrder]
theorem kernelPixel_bayer1 : kernelPixel p 0b100#3 = bayerPixel p 1 := by
  simp [kernelPixel, bayerOrder]
theorem kernelPixel_bayer2 : kernelPixel p 0b101#3 = bayerPixel p 2 := by
  simp [kernelPixel, bayerOrder]
theorem kernelPixel_bayer3 : kernelPixel p 0b110#3 = bayerPixel p 3 := by
  simp [kernelPixel, bayerOrder]
theorem kernelPixel_floydSteinberg : kernelPixel p 0b111#3 = floydSteinbergPixel p := by
  simp [kernelPixel]

/-- Every meaning is one run of the sequencer from the CHECK of its command (R31, R78). -/
theorem exec_eq_run (i : Instr) (s : State) :
    exec i s = .next (runCheck chip (resumeDecode chip)
      (beginCommand i.tag (BitVec.ofNat 32 i.width) (BitVec.ofNat 32 i.nbytes) s)) := by
  cases i <;> simp only [exec, Instr.tag, Instr.width, Instr.nbytes]
  · rw [execGrayscale, grayscaleCommand,
      plainCommand_eq_run _ _ _ _ s (by decide) (by decide) kernelPixel_grayscale]
  · rw [execQuantise, quantiseCommand,
      plainCommand_eq_run _ _ _ _ s (by decide) (by decide) kernelPixel_quantise]
  · rw [execWhiteNoise, whiteNoiseCommand_eq_run]
  · rw [execBayer0, bayerCommand_eq_run _ _ _ _ s (by decide) (by decide) (by decide)
      kernelPixel_bayer0]
  · rw [execBayer1, bayerCommand_eq_run _ _ _ _ s (by decide) (by decide) (by decide)
      kernelPixel_bayer1]
  · rw [execBayer2, bayerCommand_eq_run _ _ _ _ s (by decide) (by decide) (by decide)
      kernelPixel_bayer2]
  · rw [execBayer3, bayerCommand_eq_run _ _ _ _ s (by decide) (by decide) (by decide)
      kernelPixel_bayer3]
  · rw [execFloydSteinberg, floydSteinbergCommand,
      plainCommand_eq_run _ _ _ _ s (by decide) (by decide) kernelPixel_floydSteinberg]

/-! ### What a run leaves -/

/-- A kernel changes LUM, and WhiteNoise the count of its draws, and nothing else. -/
theorem kernelLoop_only (m : BitVec 3) (count start : Nat) (s : State) :
    ∃ l, forRange (kernelPixel p m) count start s =
      { s with lum := l, draws := s.draws + if m = 0b010#3 then count else 0 } := by
  unfold kernelPixel
  by_cases h0 : m = 0b000#3
  · subst h0; exact ⟨s.lum, grayscaleLoop_spec count start s⟩
  by_cases h1 : m = 0b001#3
  · subst h1
    obtain ⟨l, e, -⟩ := quantiseLoop_spec (p := p) count start s
    exact ⟨l, e⟩
  by_cases h2 : m = 0b010#3
  · subst h2
    obtain ⟨l, e, -⟩ := whiteNoiseLoop_spec (p := p) count start s
    exact ⟨l, e⟩
  rw [if_neg h0, if_neg h1, if_neg h2, if_neg h2]
  by_cases h7 : m = 0b111#3
  · rw [if_pos h7]; exact floydSteinbergLoop_only count start s
  · rw [if_neg h7]
    obtain ⟨l, e, -⟩ := bayerLoop_spec (p := p) (bayerOrder m) count start s
    exact ⟨l, e⟩

/-- The end of a command from KERNEL on, in terms of what the kernel leaves in LUM (R112, R29). -/
theorem kernelAndEncode_spec (m : BitVec 3) {s : State} (hidx : s.idx = 0) :
    ∃ l o, pixelLoop (kernelPixel p m) s =
        { s with lum := l, draws := s.draws + if m = 0b010#3 then s.lat.n.toNat else 0 } ∧
      kernelAndEncode p (kernelPixel p m) s =
        endSuccess p { s with
          phase := .encode, lum := l, outBuf := o
          draws := s.draws + if m = 0b010#3 then s.lat.n.toNat else 0 } ∧
      ∀ a, readCell o a =
        if a < 4 * s.lat.n.toNat then
          some (if a % 4 = 3 then alphaAt p s (a / 4)
            else grayByte p ((readCell l (a / 4)).getD (p.freeLum s.storeEra (a / 4))))
        else readCell s.outBuf a := by
  obtain ⟨l, e⟩ := kernelLoop_only (p := p) m s.lat.n.toNat 0 s
  have e' : pixelLoop (kernelPixel p m) s =
      { s with lum := l, draws := s.draws + if m = 0b010#3 then s.lat.n.toNat else 0 } := by
    rw [pixelLoop_from_zero _ hidx]; exact e
  obtain ⟨o, eo, ho⟩ := encodeLoop_spec (p := p) s.lat.n.toNat 0
    { s with
      phase := .encode, lum := l
      draws := s.draws + if m = 0b010#3 then s.lat.n.toNat else 0 }
  refine ⟨l, o, e', ?_, fun a => (ho a).trans ?_⟩
  · rw [kernelAndEncode, e', encodeAndEnd, pixelLoop_from_zero _ (enterPhase_idx _ _)]
    simp only [enterPhase, hidx] at eo ⊢
    rw [eo]
  · exact if_congr (by omega) rfl rfl

/-- What a command is when it enters KERNEL: the state at its DECODE with LUM, ALPHA and, for a Bayer
command, MAT filled (R105, R128, R31). -/
theorem resumeDecode_spec {s : State} (hidx : s.idx = 0) :
    ∃ l a m, resumeDecode p s = resumeKernel p
        { s with phase := .kernel, idx := 0, lum := l, alpha := a, mat := m } ∧
      (∀ j, readCell l j =
        if j < s.lat.n.toNat then some (pixelLum p s j) else readCell s.lum j) ∧
      (∀ j, readCell a j =
        if j < s.lat.n.toNat then some (pixelAlpha p s j) else readCell s.alpha j) ∧
      (∀ k, readCell m k =
        if isBayer s.lat.m = true ∧
            k < sideOf (bayerOrder s.lat.m) * sideOf (bayerOrder s.lat.m) then
          some (BitVec.ofNat 8 (bayerEntry (bayerOrder s.lat.m)
            (k / sideOf (bayerOrder s.lat.m)) (k % sideOf (bayerOrder s.lat.m))))
        else readCell s.mat k) := by
  obtain ⟨l, a, e, hl, ha⟩ := decodeLoop_spec (p := p) s.lat.n.toNat 0 s
  have e' : decodePhase p s = { s with lum := l, alpha := a } := by
    rw [decodePhase, pixelLoop_from_zero _ hidx]; exact e
  have hl' : ∀ j, readCell l j =
      if j < s.lat.n.toNat then some (pixelLum p s j) else readCell s.lum j :=
    fun j => (hl j).trans (if_congr (by omega) rfl rfl)
  have ha' : ∀ j, readCell a j =
      if j < s.lat.n.toNat then some (pixelAlpha p s j) else readCell s.alpha j :=
    fun j => (ha j).trans (if_congr (by omega) rfl rfl)
  cases hb : isBayer s.lat.m with
  | false =>
    refine ⟨l, a, s.mat, ?_, hl', ha', fun k => by simp⟩
    rw [resumeDecode_plain hb, e']; rfl
  | true =>
    obtain ⟨m, em, hm⟩ := buildLoop_spec (bayerOrder s.lat.m)
      (sideOf (bayerOrder s.lat.m) * sideOf (bayerOrder s.lat.m)) 0
      { s with phase := .build, idx := 0, lum := l, alpha := a }
    refine ⟨l, a, m, ?_, hl', ha', fun k => (hm k).trans ?_⟩
    · rw [resumeDecode_bayer hb, e']
      congr 1
      simp only [enterPhase, buildPhase] at em ⊢
      rw [show (0 : BitVec 30).toNat = 0 from rfl, Nat.sub_zero, em]
    · exact if_congr (by simp) rfl rfl

/-- A command on a good shape is the run from the KERNEL of a state whose operands are latched, whose
flags are those of a running command and whose LUM, ALPHA and MAT are filled. -/
theorem exec_good {i : Instr} {s : State} (h : GoodShape chip i.width i.nbytes) :
    ∃ k : State, exec i s = .next (resumeKernel chip k) ∧
      HasLatched k i.tag i.width i.nbytes ∧
      k = { s with
        lat := k.lat, busy := true, done := false, err := false, errcode := 0, phase := .kernel
        idx := 0, lum := k.lum, alpha := k.alpha, mat := k.mat } ∧
      (∀ j, readCell k.lum j =
        if j < i.nbytes / 4 then some (pixelLum chip s j) else readCell s.lum j) ∧
      (∀ j, readCell k.alpha j =
        if j < i.nbytes / 4 then some (pixelAlpha chip s j) else readCell s.alpha j) ∧
      (∀ j, readCell k.mat j =
        if isBayer i.tag = true ∧ j < sideOf (bayerOrder i.tag) * sideOf (bayerOrder i.tag) then
          some (BitVec.ofNat 8 (bayerEntry (bayerOrder i.tag)
            (j / sideOf (bayerOrder i.tag)) (j % sideOf (bayerOrder i.tag))))
        else readCell s.mat j) := by
  obtain ⟨hw, hn, h1, h2, h3, h4⟩ := h
  rw [exec_eq_run]
  have ew : (BitVec.ofNat 32 i.width).toNat = i.width := by
    rw [BitVec.toNat_ofNat]; exact Nat.mod_eq_of_lt hw
  have en : (BitVec.ofNat 32 i.nbytes).toNat = i.nbytes := by
    rw [BitVec.toNat_ofNat]; exact Nat.mod_eq_of_lt hn
  generalize hb : beginCommand i.tag (BitVec.ofNat 32 i.width) (BitVec.ofNat 32 i.nbytes) s = b
  have hbw : b.lat.w.toNat = i.width := by rw [← hb]; exact ew
  have hbn : b.lat.nb.toNat = i.nbytes := by rw [← hb]; exact en
  have hbm : b.lat.m = i.tag := by rw [← hb]; rfl
  have hc : checkShape chip b.lat.w.toNat b.lat.nb.toNat = none := by
    rw [hbw, hbn]; exact checkShape_none_iff.mpr ⟨h1, h2, h3, h4⟩
  obtain ⟨hpn, hph, -⟩ := passCheck_latched hc
  have hrun : runCheck chip (resumeDecode chip) b = resumeDecode chip (passCheck b) := by
    rcases runCheck_cases chip (resumeDecode chip) b with ⟨-, e⟩ | ⟨e, -⟩
    · exact e
    · exact absurd hc e
  obtain ⟨l, a, m, e, hl, ha, hm⟩ := resumeDecode_spec (p := chip) (s := passCheck b) rfl
  rw [hrun, e]
  have hpm : (passCheck b).lat.m = i.tag := by rw [← hbm]; rfl
  rw [hpn, hbn] at hl ha
  rw [hpm] at hm
  refine ⟨_, rfl, ⟨hpm, hbw, hbn, by rw [← hbn]; exact hpn, by rw [← hbn, ← hbw]; exact hph⟩,
    ?_, ?_, ?_, ?_⟩
  · rw [← hb]; rfl
  · rw [← hb] at hl; exact hl
  · rw [← hb] at ha; exact ha
  · rw [← hb] at hm; exact hm

/-- A command on any other shape fails at CHECK (R193, R196). -/
theorem exec_bad {i : Instr} {s : State} (hwf : i.wellFormed = true)
    (h : ¬GoodShape chip i.width i.nbytes) :
    exec i s = .next (raise chip .invalidImageShape
      (beginCommand i.tag (BitVec.ofNat 32 i.width) (BitVec.ofNat 32 i.nbytes) s)) := by
  simp only [Instr.wellFormed, Instr.widthFits, Instr.nbytesFits, Bool.and_eq_true,
    decide_eq_true_eq] at hwf
  rw [exec_eq_run]
  rcases runCheck_cases chip (resumeDecode chip)
    (beginCommand i.tag (BitVec.ofNat 32 i.width) (BitVec.ofNat 32 i.nbytes) s) with ⟨e, -⟩ | ⟨-, e⟩
  · refine absurd ⟨hwf.1, hwf.2, ?_⟩ h
    rw [beginCommand_lat] at e
    simp only [BitVec.toNat_ofNat, Nat.mod_eq_of_lt hwf.1, Nat.mod_eq_of_lt hwf.2] at e
    exact checkShape_none_iff.mp e
  · rw [e]

/-! ### Where the result is specified -/

theorem colorWritten_iff {s : State} {i : Nat} : colorWritten s i = true ↔ ColorWritten s i := by
  simp only [colorWritten, Bool.and_eq_true, Option.isSome_iff_exists]
  refine ⟨fun ⟨⟨h0, h1⟩, h2⟩ c hc => ?_, fun h => ⟨⟨h 0 (by omega), h 1 (by omega)⟩, h 2 (by omega)⟩⟩
  match c, hc with
  | 0, _ => exact h0
  | 1, _ => exact h1
  | 2, _ => exact h2

/-- In a state that has latched command `i` over the image of `s`, a pixel of the result is specified
if the host has not interfered and what it depends on has been written (R67, R219). -/
theorem resultSpecified_iff {i : Instr} {s k : State} (hm : k.lat.m = i.tag)
    (hin : k.inBuf = s.inBuf) (j : Nat) :
    resultSpecified k j = true ↔ k.disturbed = false ∧ InputWritten i s j := by
  have hc : ∀ j, colorWritten k j = true ↔ ColorWritten s j := fun j => by
    rw [colorWritten_iff, ColorWritten, ColorWritten, hin]
  unfold resultSpecified inputWritten InputWritten
  rw [Bool.and_eq_true, hm]
  refine and_congr (by simp) ?_
  split
  · simp [hc]
  · exact hc j

/-- A byte of a specified pixel of the result is the one ENCODE wrote (R29, R112). -/
theorem readCell_endSuccess_specified {i : Instr} {s k : State} {a : Nat} (hm : k.lat.m = i.tag)
    (hin : k.inBuf = s.inBuf) (hd : k.disturbed = false) (hw : InputWritten i s (a / 4)) :
    readCell (endSuccess p k).outBuf a = readCell k.outBuf a := by
  rw [readCell_endSuccess, if_neg]
  rw [(resultSpecified_iff hm hin _).mpr ⟨hd, hw⟩]
  exact fun h => Bool.noConfusion h.2

/-- A byte of a pixel of the result that is not specified is free (R67, R219). -/
theorem readCell_endSuccess_unspecified {i : Instr} {s k : State} {a : Nat} (hm : k.lat.m = i.tag)
    (hin : k.inBuf = s.inBuf) (hn : a / 4 < k.lat.n.toNat)
    (h : k.disturbed = true ∨ ¬InputWritten i s (a / 4)) :
    readCell (endSuccess p k).outBuf a = some (p.freeResult k.fresh a) := by
  have hr : resultSpecified k (a / 4) = false := by
    rw [← Bool.not_eq_true, resultSpecified_iff hm hin]
    rintro ⟨h1, h2⟩
    rcases h with h | h
    · rw [h] at h1; cases h1
    · exact h h2
  rw [readCell_endSuccess, if_pos ⟨hn, hr⟩]

/-- A byte of OUT beyond the image is left alone by the end of a command (R58). -/
theorem readCell_endSuccess_above {k : State} {a : Nat} (h : k.lat.n.toNat ≤ a / 4) :
    readCell (endSuccess p k).outBuf a = readCell k.outBuf a := by
  rw [readCell_endSuccess, if_neg (by omega)]

/-! ### What a command can do -/

/-- How often a command on a good shape asks the random source (R148, R149). -/
def asksOf (i : Instr) : Nat := if i.tag = 0b010#3 then 1 else 0

/-- The state of a command on a good shape when it enters KERNEL, the random source asked: `s` with
the command's operands latched, the flags of a running command, and LUM, ALPHA and MAT filled. -/
structure AtKernel (i : Instr) (s k : State) : Prop where
  latched : HasLatched k i.tag i.width i.nbytes
  frame : k = { s with
    lat := k.lat, busy := true, done := false, err := false, errcode := 0, phase := .kernel
    idx := 0, lum := k.lum, alpha := k.alpha, mat := k.mat, rngAsks := s.rngAsks + asksOf i }
  lum : ∀ j, readCell k.lum j =
    if j < i.nbytes / 4 then some (pixelLum chip s j) else readCell s.lum j
  alpha : ∀ j, readCell k.alpha j =
    if j < i.nbytes / 4 then some (pixelAlpha chip s j) else readCell s.alpha j
  mat : ∀ j, readCell k.mat j =
    if isBayer i.tag = true ∧ j < sideOf (bayerOrder i.tag) * sideOf (bayerOrder i.tag) then
      some (BitVec.ofNat 8 (bayerEntry (bayerOrder i.tag)
        (j / sideOf (bayerOrder i.tag)) (j % sideOf (bayerOrder i.tag))))
    else readCell s.mat j

/-- Everything a well-formed command can do: it fails at CHECK; or the random source does not
initialise; or it runs its kernel on the filled stores, encodes LUM and ALPHA into OUT and ends. -/
theorem exec_cases {i : Instr} (s : State) (hwf : i.wellFormed = true) :
    (¬GoodShape chip i.width i.nbytes ∧
      exec i s = .next (raise chip .invalidImageShape
        (beginCommand i.tag (BitVec.ofNat 32 i.width) (BitVec.ofNat 32 i.nbytes) s))) ∨
    (GoodShape chip i.width i.nbytes ∧ i.tag = 0b010#3 ∧ chip.rngOk s.rngAsks = false ∧
      ∃ k, AtKernel i s k ∧ exec i s = .next (raise chip .randomSourceUnavailable k)) ∨
    (GoodShape chip i.width i.nbytes ∧ (i.tag = 0b010#3 → chip.rngOk s.rngAsks = true) ∧
      ∃ k l o, AtKernel i s k ∧
        forRange (kernelPixel chip i.tag) (i.nbytes / 4) 0 k =
          { k with lum := l, draws := s.draws + asksOf i * (i.nbytes / 4) } ∧
        exec i s = .next (endSuccess chip
          { k with
            phase := .encode, lum := l, outBuf := o
            draws := s.draws + asksOf i * (i.nbytes / 4) }) ∧
        ∀ a, readCell o a =
          if a < i.nbytes then
            some (if a % 4 = 3 then pixelAlpha chip s (a / 4)
              else grayByte chip ((readCell l (a / 4)).getD (chip.freeLum s.storeEra (a / 4))))
          else readCell s.outBuf a) := by
  by_cases hg : GoodShape chip i.width i.nbytes
  · refine Or.inr ?_
    obtain ⟨k, e, hl, hk, hlum, ha, hmat⟩ := exec_good (s := s) hg
    have hn4 : 4 * (i.nbytes / 4) = i.nbytes := by
      have : 4 ∣ i.nbytes := Dvd.dvd.trans ⟨i.width, rfl⟩ (Nat.dvd_of_mod_eq_zero hg.2.2.2.2.1)
      omega
    have ends : ∀ k', AtKernel i s k' →
        exec i s = .next (kernelAndEncode chip (kernelPixel chip i.tag) k') →
        ∃ k l o, AtKernel i s k ∧
          forRange (kernelPixel chip i.tag) (i.nbytes / 4) 0 k =
            { k with lum := l, draws := s.draws + asksOf i * (i.nbytes / 4) } ∧
          exec i s = .next (endSuccess chip
            { k with
              phase := .encode, lum := l, outBuf := o
              draws := s.draws + asksOf i * (i.nbytes / 4) }) ∧
          ∀ a, readCell o a =
            if a < i.nbytes then
              some (if a % 4 = 3 then pixelAlpha chip s (a / 4)
                else grayByte chip ((readCell l (a / 4)).getD (chip.freeLum s.storeEra (a / 4))))
            else readCell s.outBuf a := by
      intro k' h' e'
      have hidx : k'.idx = 0 := (congrArg State.idx h'.frame :)
      have hn : k'.lat.n.toNat = i.nbytes / 4 := h'.latched.2.2.2.1
      have hd : k'.draws = s.draws := (congrArg State.draws h'.frame :)
      have he : k'.storeEra = s.storeEra := (congrArg State.storeEra h'.frame :)
      have hout : k'.outBuf = s.outBuf := (congrArg State.outBuf h'.frame :)
      obtain ⟨l, o, e1, e2, ho⟩ := kernelAndEncode_spec (p := chip) i.tag hidx
      have hmul : (if i.tag = 0b010#3 then k'.lat.n.toNat else 0) = asksOf i * (i.nbytes / 4) := by
        rw [hn, asksOf]; split <;> simp
      rw [hmul, hd] at e1 e2
      rw [pixelLoop_from_zero _ hidx, hn] at e1
      refine ⟨k', l, o, h', e1, by rw [e', e2], fun a => ?_⟩
      rw [ho, hn, hn4, he, hout]
      by_cases hlt : a < i.nbytes
      · have hal : alphaAt chip k' (a / 4) = pixelAlpha chip s (a / 4) := by
          rw [alphaAt, h'.alpha, if_pos (by omega)]; rfl
        rw [if_pos hlt, if_pos hlt, hal]
      · rw [if_neg hlt, if_neg hlt]
    by_cases hm : i.tag = 0b010#3
    · have hask : AtKernel i s (countAsk k) := by
        refine ⟨hl, ?_, hlum, ha, hmat⟩
        have hr : k.rngAsks = s.rngAsks := by rw [hk]
        rw [asksOf, if_pos hm, countAsk, hr]
        conv_lhs => rw [hk]
      have hkr : k.rngAsks = s.rngAsks := (congrArg State.rngAsks hk :)
      have hidx : k.idx = 0 := (congrArg State.idx hk :)
      rw [resumeKernel_whiteNoise (hl.1.trans hm) hidx] at e
      rcases askRandomSource_cases chip (kernelAndEncode chip (whiteNoisePixel chip)) k with
        ⟨h1, h2⟩ | ⟨h1, h2⟩
      · rw [h2] at e
        refine Or.inr ⟨hg, fun _ => hkr ▸ h1, ends _ hask ?_⟩
        rw [e, hm, kernelPixel_whiteNoise]
      · rw [h2] at e
        exact Or.inl ⟨hg, hm, hkr ▸ h1, countAsk k, hask, e⟩
    · refine Or.inr ⟨hg, fun h => absurd h hm, ends k ?_ ?_⟩
      · refine ⟨hl, ?_, hlum, ha, hmat⟩
        rw [asksOf, if_neg hm]; exact hk
      · rw [e, resumeKernel_plain (by rw [hl.1]; exact hm), hl.1]
  · exact Or.inl ⟨hg, exec_bad hwf hg⟩

end Sys2Proof.Machine
end

