-- ==== Sys2Proof/Laws/PerInstr.lean ====
section
/-! SUPPORT. Laws/PerInstr.lean: statements about every instruction as syntax, one lemma per
constructor. -/

namespace Sys2Proof.Laws.EncodingShape

/-- An instruction is encoded in three words, METHOD, WIDTH and NBYTES: the reserved bits of METHOD
are zero and its low bits are the tag; a well-formed instruction loses nothing of its operands (R75,
R78). -/
def Statement (i : Instr) : Prop :=
  ∃ method width nbytes : Word, encode i = [method, width, nbytes] ∧
    method.toNat = i.tag.toNat ∧ tagOf method = i.tag ∧
    (i.wellFormed = true → width.toNat = i.width ∧ nbytes.toNat = i.nbytes)

/-- A tag survives the widening to a METHOD word and the reading of its low bits. -/
theorem tag_word (tag : BitVec 3) :
    (tag.setWidth 32 : Word).toNat = tag.toNat ∧ tagOf (tag.setWidth 32) = tag := by
  have h := tag.isLt
  have e : (tag.setWidth 32 : Word).toNat = tag.toNat := by
    rw [BitVec.toNat_setWidth]; omega
  refine ⟨e, BitVec.eq_of_toNat_eq ?_⟩
  rw [tagOf, BitVec.extractLsb'_toNat, e, Nat.shiftRight_zero]
  exact Nat.mod_eq_of_lt h

/-- The statement does not depend on the constructor. -/
theorem statement_of (i : Instr) : Statement i := by
  refine ⟨_, _, _, rfl, (tag_word i.tag).1, (tag_word i.tag).2, fun h => ?_⟩
  simp only [Instr.wellFormed, Instr.widthFits, Instr.nbytesFits, Bool.and_eq_true,
    decide_eq_true_eq] at h
  simp only [BitVec.toNat_ofNat]
  exact ⟨Nat.mod_eq_of_lt h.1, Nat.mod_eq_of_lt h.2⟩

theorem grayscale (width nbytes : Nat) : Statement (.grayscale width nbytes) := statement_of _
theorem quantise (width nbytes : Nat) : Statement (.quantise width nbytes) := statement_of _
theorem whiteNoise (width nbytes : Nat) : Statement (.whiteNoise width nbytes) := statement_of _
theorem bayer0 (width nbytes : Nat) : Statement (.bayer0 width nbytes) := statement_of _
theorem bayer1 (width nbytes : Nat) : Statement (.bayer1 width nbytes) := statement_of _
theorem bayer2 (width nbytes : Nat) : Statement (.bayer2 width nbytes) := statement_of _
theorem bayer3 (width nbytes : Nat) : Statement (.bayer3 width nbytes) := statement_of _
theorem floydSteinberg (width nbytes : Nat) : Statement (.floydSteinberg width nbytes) :=
  statement_of _

end Sys2Proof.Laws.EncodingShape
end

