-- ==== Sys2Proof/Laws/Step.lean ====
section
/-! SUPPORT. Laws/Step.lean: what one step of the whole machine can do, and what one transition of the
sequencer can do. -/

namespace Sys2Proof.Machine

variable {p : Params} {s : State}

/-- A step is a run of the block, with or without a `wait` of the host, or another move of the
host (log 3). -/
theorem step_cases {o : Host.Outcome State Fault Refusal} (h : step s = o) :
    (s.host = [] ∧ blockRun s = o) ∨
    (∃ rest, s.host = .wait :: rest ∧ blockRun { s with host := rest } = o) ∨
    (∃ m rest, m ≠ .wait ∧ s.host = m :: rest ∧ hostMove chip m { s with host := rest } = o) := by
  unfold step at h
  split at h
  · exact Or.inl ⟨‹_›, h⟩
  · exact Or.inr (Or.inl ⟨_, ‹_›, h⟩)
  · exact Or.inr (Or.inr ⟨_, _, fun e => by simp_all, ‹_›, h⟩)

/-- The block executes the command that has just been started, or runs one in progress to its end, or
does nothing. -/
theorem blockRun_cases {o : Host.Outcome State Fault Refusal} (h : blockRun s = o) :
    (s.phase = .check ∧ exec (fetch s) s = o) ∨ (s.phase ≠ .check ∧ o = .next (resume chip s)) := by
  unfold blockRun at h
  split at h
  · exact Or.inl ⟨‹_›, h⟩
  · exact Or.inr ⟨‹_›, h.symm⟩

/-- The words of a started command decode to the command fetched (R75, R90). -/
theorem decode_fetchWords (s : State) : decode (fetchWords s) = .ok (fetch s, []) := rfl

/-- One transition of the sequencer, by phase (R31). -/
theorem seqStep_cases (p : Params) (s : State) :
    (s.phase = .idle ∧ seqStep p s = s) ∨
    (s.phase = .check ∧ seqStep p s = runCheck p id s) ∨
    (s.phase = .decode ∧
      seqStep p s = advance s.lat.n.toNat leaveDecode (decodePixel p s.idx.toNat s)) ∨
    (s.phase = .build ∧
      seqStep p s = advance (sideOf (bayerOrder s.lat.m) * sideOf (bayerOrder s.lat.m))
        (enterPhase .kernel) (buildEntry (bayerOrder s.lat.m) s.idx.toNat s)) ∨
    (s.phase = .kernel ∧
      seqStep p s = startKernel p
        (fun s₁ => advance s₁.lat.n.toNat (enterPhase .encode)
          (kernelPixel p s₁.lat.m s₁.idx.toNat s₁)) s) ∨
    (s.phase = .encode ∧
      seqStep p s = advance s.lat.n.toNat (endSuccess p) (encodePixel p s.idx.toNat s)) := by
  cases h : s.phase <;> simp [seqStep, h]

/-- The rest of a command, by phase. -/
theorem resume_cases (p : Params) (s : State) :
    (s.phase = .idle ∧ resume p s = s) ∨
    (s.phase = .check ∧ resume p s = runCheck p (resumeDecode p) s) ∨
    (s.phase = .decode ∧ resume p s = resumeDecode p s) ∨
    (s.phase = .build ∧ resume p s = resumeBuild p s) ∨
    (s.phase = .kernel ∧ resume p s = resumeKernel p s) ∨
    (s.phase = .encode ∧ resume p s = encodeAndEnd p s) := by
  cases h : s.phase <;> simp [resume, h]

end Sys2Proof.Machine
end

