-- ==== Sys2Proof/Machine/Power.lean ====
section
/-! DEFINITION. Machine/Power.lean: the reference configuration (spec/00_scope.md section 4, R12),
for evaluation: `POW` computed with 256 fraction bits and rounded once to the format, as the
calculator of spec/95_test_vectors.md section 5 does with 200 bits. The machine itself runs with
`chip`, of which only R104's properties are known; nothing about the machine rests on this file
(log 5). -/

namespace Sys2Proof.Machine

/-- Fraction bits of the fixed-point numbers below. -/
def fxBits : Int := 256

/-- The fixed-point number 1. -/
def fxOne : Int := 2 ^ 256

/-- `Σ z^(2k+1)/(2k+1)` from term `k` on, `pow` being `z^(2k+1)`: the series of artanh. -/
def artanhSum (z2 : Int) : (fuel k : Nat) → (pow acc : Int) → Int
  | 0, _, _, acc => acc
  | fuel + 1, k, pow, acc =>
    artanhSum z2 fuel (k + 1) (pow * z2 / fxOne) (acc + pow / (2 * (k : Int) + 1))

/-- Natural logarithm of a fixed-point number in [1, 2]. -/
def fxLn (t : Int) : Int :=
  let z := (t - fxOne) * fxOne / (t + fxOne)
  2 * artanhSum (z * z / fxOne) 90 0 z 0

/-- `Σ r^n/n!` from term `n` on, `term` being `r^n/n!`: the series of exp. -/
def expSum (r : Int) : (fuel n : Nat) → (term acc : Int) → Int
  | 0, _, _, acc => acc
  | fuel + 1, n, term, acc =>
    expSum r fuel (n + 1) (term * r / fxOne / ((n : Int) + 1)) (acc + term)

/-- The reference `POW` of R12 and R104: the real power rounded to the format, for `x > 0`. -/
def refPow (f : Fmt) (x y : Rat) : FmtVal :=
  if x ≤ 0 then 0
  else if x = 1 then 1
  else
    let k := ilog2 x
    let ln2 := fxLn (2 * fxOne)
    let lnx := fxLn ((x / pow2 k * (fxOne : Rat)).floor) + k * ln2
    let u := lnx * y.num / (y.den : Int)
    let q := u / ln2
    let e := expSum (u - q * ln2) 80 0 fxOne 0
    rnd f ((e : Rat) * pow2 (q - fxBits))

/-- The reference configuration in format `f` (reference value binary64, R11), with `MAXPIX` at its
bound (R14) and a random source that initialises and draws the listed values, then zeros. -/
def referenceParams (f : Fmt) (rngOk : Bool) (draws : List Rat) : Params where
  fmt := f
  maxPix := maxPixLimit
  pow := refPow f
  rngOk := fun _ => rngOk
  draw := fun k => draws.getD k 0
  freeIn := fun _ _ => 0
  freeOut := fun _ _ => 0
  freeLum := fun _ _ => 0
  freeAlpha := fun _ _ => 0
  freeMat := fun _ _ => 0
  busyOut := fun _ _ => 0
  freeResult := fun _ _ => 0
  freeLatched := fun _ => default

end Sys2Proof.Machine
end

