-- ==== Sys2Proof/Tests/Slice0.lean ====
section
/-! SUPPORT. Tests/Slice0.lean: the ill-formed terms that WellFormed refuses; words written out from
the spec's encoding; vectors of spec/95_test_vectors.md under the reference configuration; and for
each statement with hypotheses a state that meets them. -/

open Sys2Proof Sys2Proof.Machine

/-! ### WellFormed refuses -/

theorem test_width_too_wide :
    (Instr.bayer2 0x100000000 4).widthFits = false ∧
      (Instr.bayer2 0x100000000 4).wellFormed = false := by decide

theorem test_nbytes_too_wide :
    (Instr.whiteNoise 1 0x100000000).nbytesFits = false ∧
      (Instr.whiteNoise 1 0x100000000).wellFormed = false := by decide

theorem test_widest_operands_fit :
    (Instr.floydSteinberg 0xFFFFFFFF 0xFFFFFFFF).wellFormed = true := by decide

/-! ### Decoding, words written out from spec/30_encoding.md R75, R78 -/

theorem test_decode_grayscale :
    decode [0b00000000000000000000000000000000, 3, 12] = .ok (.grayscale 3 12, []) := by decide

theorem test_decode_quantise :
    decode [0b00000000000000000000000000000001, 2, 16] = .ok (.quantise 2 16, []) := by decide

theorem test_decode_whiteNoise :
    decode [0b00000000000000000000000000000010, 2, 16, 7] = .ok (.whiteNoise 2 16, [7]) := by decide

theorem test_decode_bayer0 :
    decode [0b00000000000000000000000000000011, 2, 16] = .ok (.bayer0 2 16, []) := by decide

theorem test_decode_bayer1 :
    decode [0b00000000000000000000000000000100, 5, 40] = .ok (.bayer1 5 40, []) := by decide

theorem test_decode_bayer2 :
    decode [0b00000000000000000000000000000101, 8, 32] = .ok (.bayer2 8 32, []) := by decide

theorem test_decode_bayer3 :
    decode [0b00000000000000000000000000000110, 16, 64] = .ok (.bayer3 16 64, []) := by decide

theorem test_decode_floydSteinberg :
    decode [0b00000000000000000000000000000111, 0xFFFFFFFF, 0x80000000] =
      .ok (.floydSteinberg 0xFFFFFFFF 0x80000000, []) := by decide

/-- The reserved bits METHOD[31:3] are ignored (R23; vector Y3 has METHOD 0x0000000C). -/
theorem test_decode_reserved_bits :
    decode [0b00000000000000000000000000001100, 1, 4] = .ok (.bayer1 1 4, []) ∧
      decode [0b11111111111111111111111111111111, 1, 4] = .ok (.floydSteinberg 1 4, []) := by
  decide

theorem test_decode_missing_words :
    decode [] = .error .missingMethod ∧ decode [1] = .error .missingWidth ∧
      decode [1, 2] = .error .missingNbytes := by decide

/-- Bit 0 of a table word is the least significant bit of METHOD. -/
theorem test_table_word : decodeTableWord 32 6 = some (.bayer3 0 0) := by decide

/-! ### Vectors of spec/95_test_vectors.md under the reference configuration -/

/-- The reference configuration in binary64, with a random source that answers. -/
def ref64 : Params := referenceParams .binary64 true [1 / 10, 9 / 10, 1 / 2, 0]

/-- The reference configuration in binary32, with a random source that does not initialise. -/
def ref32 : Params := referenceParams .binary32 false []

/-- A state with an image in IN and one byte at OUT[20]. -/
def imageState (bytes : List Byte) : State :=
  { State.reset with inBuf := bytes.zipIdx.map fun c => (c.2, c.1), outBuf := [(20, 9)] }

/-- The bytes of OUT of a state, in order of address. -/
def outBytes (s : State) : List Nat := s.outBuf.map fun c => c.2.toNat

/-- An opaque gray pixel. -/
def gray (v : Byte) : List Byte := [v, v, v, 255]

/-- The image of section 2.11. -/
def image211 : List Byte := [10, 20, 30, 40, 250, 240, 230, 220, 128, 128, 128, 128, 90, 180, 60, 0]

/-- Vector T0; `OUT[20]` is untouched (Y12). -/
theorem test_grayscale :
    outBytes (grayscaleCommand ref64 2 16 (imageState image211)) =
      [19, 19, 19, 40, 241, 241, 241, 220, 128, 128, 128, 128, 160, 160, 160, 0, 9] := by
  decide +kernel

/-- Vector G1 in binary32. -/
theorem test_grayscale_binary32 :
    outBytes (grayscaleCommand ref32 3 12
      (imageState [255, 0, 0, 128, 0, 255, 0, 0, 0, 0, 255, 255])) =
      [127, 127, 127, 128, 220, 220, 220, 0, 76, 76, 76, 255, 9] := by
  decide +kernel

/-- Vector T1. -/
theorem test_quantise :
    outBytes (quantiseCommand ref64 2 16 (imageState image211)) =
      [0, 0, 0, 40, 255, 255, 255, 220, 0, 0, 0, 128, 0, 0, 0, 0, 9] := by
  decide +kernel

/-- Vectors A and A2 in binary32, a pixel of each: byte 188 is above 1/2 and 187 is not. -/
theorem test_quantise_mid_gray :
    outBytes (quantiseCommand ref32 2 8 (imageState (gray 188 ++ gray 187))) =
      [255, 255, 255, 255, 0, 0, 0, 255, 9] := by
  decide +kernel

/-- Vector F: the k-th draw belongs to pixel k, and four draws are taken. -/
theorem test_whiteNoise :
    let t := whiteNoiseCommand ref64 2 16
      (imageState (gray 188 ++ gray 188 ++ gray 188 ++ [0, 0, 0, 7]))
    outBytes t = [255, 255, 255, 255, 0, 0, 0, 255, 255, 255, 255, 255, 0, 0, 0, 7, 9] ∧
      t.draws = 4 ∧ t.done = true := by
  decide +kernel

/-- Vectors X10 and X11: the random source does not initialise; the shape is tested first. -/
theorem test_whiteNoise_fails :
    (whiteNoiseCommand ref32 2 16 (imageState image211)).errcode = 1 ∧
      outBytes (whiteNoiseCommand ref32 2 16 (imageState image211)) = [9] ∧
      (whiteNoiseCommand ref32 2 12 (imageState image211)).errcode = 2 ∧
      (whiteNoiseCommand ref32 2 12 (imageState image211)).rngAsks = 0 := by
  decide +kernel

/-- Vector P: the column selects the matrix row. -/
theorem test_bayer0 :
    outBytes (bayerCommand ref64 0b011#3 0 2 16
      (imageState (gray 215 ++ gray 215 ++ gray 215 ++ gray 215))) =
      [255, 255, 255, 255, 0, 0, 0, 255, 255, 255, 255, 255, 255, 255, 255, 255, 9] := by
  decide +kernel

/-- The first row of vector H. -/
theorem test_bayer1 :
    outBytes (bayerCommand ref64 0b100#3 1 5 20
      (imageState (gray 150 ++ gray 150 ++ gray 150 ++ gray 150 ++ gray 150))) =
      [255, 255, 255, 255, 0, 0, 0, 255, 255, 255, 255, 255, 0, 0, 0, 255, 255, 255, 255, 255,
        9] := by
  decide +kernel

/-- The first five pixels of vector J. -/
theorem test_bayer2 :
    outBytes (bayerCommand ref64 0b101#3 2 5 20
      (imageState (gray 30 ++ gray 60 ++ gray 90 ++ gray 120 ++ gray 150))) =
      [255, 255, 255, 255, 0, 0, 0, 255, 0, 0, 0, 255, 0, 0, 0, 255, 255, 255, 255, 255,
        9] := by
  decide +kernel

/-- Vector T6. -/
theorem test_bayer3 :
    outBytes (bayerCommand ref64 0b110#3 3 2 16 (imageState image211)) =
      [255, 255, 255, 40, 255, 255, 255, 220, 0, 0, 0, 128, 255, 255, 255, 0, 9] := by
  decide +kernel

/-- Vector D in binary32: pixel 1 alone would be white. -/
theorem test_floydSteinberg :
    outBytes (floydSteinbergCommand ref32 2 16
      (imageState (gray 188 ++ gray 188 ++ gray 188 ++ gray 188))) =
      [255, 255, 255, 255, 0, 0, 0, 255, 0, 0, 0, 255, 255, 255, 255, 255, 9] := by
  decide +kernel

/-- Vector O with `width = 1`: only the bottom share exists. -/
theorem test_floydSteinberg_column :
    outBytes (floydSteinbergCommand ref64 1 16
      (imageState (gray 100 ++ gray 200 ++ gray 150 ++ gray 50))) =
      [0, 0, 0, 255, 255, 255, 255, 255, 0, 0, 0, 255, 0, 0, 0, 255, 9] := by
  decide +kernel

/-- R219: the R byte of pixel 1 was never written. Its four bytes are free values (0 in the reference
configuration), whose alpha is not the 255 of IN; under FloydSteinberg so are those of pixel 2. -/
theorem test_unwritten_color :
    let s := { State.reset with
      inBuf := [(0, 255), (1, 255), (2, 255), (3, 255), (5, 255), (6, 255), (7, 255), (8, 255),
        (9, 255), (10, 255), (11, 255)] }
    outBytes (quantiseCommand ref64 3 12 s) = [255, 255, 255, 255, 0, 0, 0, 0, 255, 255, 255, 255] ∧
      outBytes (floydSteinbergCommand ref64 3 12 s) = [255, 255, 255, 255, 0, 0, 0, 0, 0, 0, 0, 0] := by
  decide +kernel

/-- R219: an alpha byte never written influences only its own output alpha. -/
theorem test_unwritten_alpha :
    outBytes (floydSteinbergCommand ref64 2 8 { State.reset with
      inBuf := [(0, 255), (1, 255), (2, 255), (4, 255), (5, 255), (6, 255), (7, 9)] }) =
      [255, 255, 255, 0, 255, 255, 255, 9] := by
  decide +kernel

/-- Vectors X2, X4, X5, X6 and X8: `4 * W` does not wrap. -/
theorem test_bad_shapes :
    [(2, 0), (1, 6), (2, 12), (3, 4), (2 ^ 30, 16)].map (fun c => checkShape ref64 c.1 c.2) =
      List.replicate 5 (some .invalidImageShape) ∧ checkShape ref64 2 8 = none := by
  decide

/-- The constants and the two ends of `gam` (section 2.1). -/
theorem test_gam_one :
    gam ref64 1 = 1 - 1 / 2 ^ 53 ∧ gam ref32 1 = 1 - 1 / 2 ^ 24 ∧
      addF .binary64 (addF .binary64 (kR .binary64) (kG .binary64)) (kB .binary64) = 1 := by
  decide +kernel

/-- Section 2.2: `lum(11,11,11)` is not `lin(11)`. -/
theorem test_lum_eleven :
    lumOf ref64 11 11 11 = 0x1b6a31b5259c98 / 2 ^ 61 ∧
      lin ref64 11 = 0x1b6a31b5259c99 / 2 ^ 61 := by
  decide +kernel

/-- The strict comparison at its threshold (section 2.7). -/
theorem test_threshold_is_strict : thr (1 / 2) (1 / 2) = 0 := by decide +kernel

/-- Vector Y2 (METHOD keeps bits [2:0]) and Y6 (register 6). -/
theorem test_method_register :
    readRegister (writeRegister 5 0xFFFFFFFF State.reset) 5 = 7 ∧
      readRegister (writeRegister 6 1 State.reset) 6 = 0 := by decide

/-- Vectors Y9 and Y10: while BUSY a START is ignored and WIDTH is writable but not used. -/
theorem test_busy_registers :
    let s := hostStart { State.reset with width := 2, nbytes := 8 }
    writeRegister 0 1 s = s ∧ (writeRegister 3 4 s).lat.w = 2 ∧
      readRegister (writeRegister 3 4 s) 3 = 4 ∧ readRegister s 1 = 1 := by decide

/-- Vector X3: the command of a table word, as the first after reset, has the reset operands. -/
theorem test_first_step :
    ∃ t, step (State.reset.withFetchWord 32 0b101) = .next t ∧ t.err = true ∧ t.errcode = 2 :=
  ⟨_, rfl, rfl, rfl⟩

/-! ### Hypotheses met -/

/-- `MAXPIX` is at least 1, so the one-pixel image is a good shape. -/
theorem goodShape_one : GoodShape chip 1 4 :=
  ⟨by decide, by decide, by decide, by decide, by decide, Config.chip.maxPix_pos⟩

/-- The largest image, as one column and as one row. -/
theorem goodShape_largest :
    GoodShape chip 1 (4 * chip.maxPix) ∧ GoodShape chip chip.maxPix (4 * chip.maxPix) := by
  have h : chip.maxPix ≤ 2 ^ 30 - 1 := Config.chip.maxPix_le
  have h0 : 0 < chip.maxPix := Config.chip.maxPix_pos
  exact ⟨⟨by omega, by omega, by omega, by omega, by omega, by omega⟩,
    ⟨by omega, by omega, by omega, by omega, Nat.mod_self _, by omega⟩⟩

/-- A command on a good shape that is not WhiteNoise ends with DONE. -/
theorem exec_done_of_good (i : Instr) (s : State) (hw : i.wellFormed = true)
    (h : GoodShape chip i.width i.nbytes) (ht : i.tag ≠ 0b010#3) :
    ∃ t, exec i s = .next t ∧ t.done = true := by
  rcases exec_cases s hw with ⟨hb, -⟩ | ⟨-, ht', -⟩ | ⟨-, -, k, l, o, -, -, e, -⟩
  · exact absurd h hb
  · exact absurd ht' ht
  · exact ⟨_, e, by rw [endSuccess_eq]⟩

/-- A one-pixel white image with alpha 7. -/
def whitePixel : State := { State.reset with inBuf := [(0, 255), (1, 255), (2, 255), (3, 7)] }

/-- A started command: the tag is in the latched operands, PHASE is CHECK. -/
def started : State := State.reset.withFetchWord 32 0b001

/-- A command on a one-pixel image in the KERNEL phase. -/
def inKernel : State :=
  { State.reset with
    busy := true, phase := .kernel
    lat := { w := 1, nb := 4, m := 0b111, n := 1, h := 1 } }

/-- An idle state with one move of the host to come. -/
def withMove (m : HostMove) : State := { State.reset with host := [m] }

theorem witness_DecodeInvertsEncode : (Instr.floydSteinberg 0xFFFFFFFF 0).wellFormed = true := by
  decide

theorem witness_StepRunsTheFetchedCommand :
    started.phase = .check ∧ decode (fetchWords started) = .ok (.quantise 0 0, []) ∧
      (Instr.quantise 0 0).wellFormed = true ∧ started.host = [] ∧
      { started with host := [.wait, .reset] }.host = .wait :: [.reset] ∧
      inKernel.phase ≠ .check ∧ inKernel.host = [] ∧
      { inKernel with host := [.wait] }.host = .wait :: [] ∧
      { inKernel with host := [.tick] }.host = .tick :: [] := by decide

/-- Every color byte of the white pixel has been written. -/
theorem whitePixel_written : ColorWritten whitePixel 0 := fun c hc =>
  match c, hc with
  | 0, _ => ⟨255, rfl⟩
  | 1, _ => ⟨255, rfl⟩
  | 2, _ => ⟨255, rfl⟩

/-- So every command's result is specified there. -/
theorem whitePixel_input (i : Instr) : InputWritten i whitePixel 0 := by
  unfold InputWritten
  split
  · exact fun j hj => Nat.le_zero.mp hj ▸ whitePixel_written
  · exact whitePixel_written

/-- Nothing has been written at reset, so no command's result is specified. -/
theorem reset_input (i : Instr) (k : Nat) : ¬InputWritten i State.reset k := by
  have h : ¬ColorWritten State.reset k := fun h => by
    obtain ⟨v, hv⟩ := h 0 (by decide)
    cases hv
  unfold InputWritten
  split
  · exact fun h' => h (h' k le_rfl)
  · exact h

theorem witness_GoodShape_commands :
    GoodShape chip 1 4 ∧ GoodShape chip chip.maxPix (4 * chip.maxPix) ∧
      whitePixel.disturbed = false ∧ 0 < 4 / 4 ∧ ColorWritten whitePixel 0 ∧
      ∀ j, j ≤ 0 → ColorWritten whitePixel j :=
  ⟨goodShape_one, goodShape_largest.2, rfl, by decide, whitePixel_written,
    fun _ hj => Nat.le_zero.mp hj ▸ whitePixel_written⟩

/-- The two clauses of WhiteNoise are the two answers of a random source. -/
theorem witness_WhiteNoise_clauses : ref64.rngOk 0 = true ∧ ref32.rngOk 0 = false := by decide

theorem witness_BadShapeRaisesInvalidImageShape :
    (Instr.whiteNoise 2 12).wellFormed = true ∧ ¬GoodShape chip 2 12 ∧
      (Instr.bayer3 0 16).wellFormed = true ∧ ¬GoodShape chip 0 16 :=
  ⟨by decide, fun h => absurd h.2.2.2.2.1 (by decide), by decide,
    fun h => absurd h.2.2.1 (by decide)⟩

theorem witness_ShapeIsCheckedBeforeTheRandomSource :
    (2 < 2 ^ 32 ∧ 12 < 2 ^ 32 ∧ ¬GoodShape chip 2 12) ∧
      (∀ width nbytes, Instr.quantise 1 4 ≠ .whiteNoise width nbytes) ∧
      ∃ t, exec (.quantise 1 4) State.reset = .next t :=
  ⟨⟨by decide, by decide, fun h => absurd h.2.2.2.2.1 (by decide)⟩, fun _ _ h => (by cases h), _, rfl⟩

theorem witness_successful_commands :
    (Instr.bayer0 1 4).wellFormed = true ∧ whitePixel.disturbed = false ∧
      (∀ width nbytes, Instr.bayer0 1 4 ≠ .grayscale width nbytes) ∧
      (∃ t, exec (.bayer0 1 4) whitePixel = .next t ∧ t.done = true) ∧ 0 < 4 / 4 ∧
      InputWritten (.bayer0 1 4) whitePixel 0 :=
  ⟨by decide, rfl, fun _ _ h => (by cases h),
    exec_done_of_good _ _ (by decide) goodShape_one (by rw [Instr.tag]; decide), by decide,
    whitePixel_input _⟩

/-- An image of which nothing was ever written, under FloydSteinberg and under Quantise. -/
theorem witness_UnwrittenInputMakesItsPixelAnyValue :
    ∀ i ∈ [Instr.floydSteinberg 1 4, Instr.quantise 1 4],
      i.wellFormed = true ∧ State.reset.disturbed = false ∧
        (∃ t, exec i State.reset = .next t ∧ t.done = true) ∧ 0 < i.nbytes / 4 ∧
        ¬InputWritten i State.reset 0 := by
  intro i hi
  simp only [List.mem_cons, List.not_mem_nil, or_false] at hi
  rcases hi with rfl | rfl
  · exact ⟨by decide, rfl, exec_done_of_good _ _ (by decide) goodShape_one (by rw [Instr.tag]; decide),
      by decide, reset_input _ _⟩
  · exact ⟨by decide, rfl, exec_done_of_good _ _ (by decide) goodShape_one (by rw [Instr.tag]; decide),
      by decide, reset_input _ _⟩

/-- Two images that differ in an alpha byte, which the second has not. -/
theorem witness_AlphaInfluencesOnlyItsOwnOutputAlpha :
    let s₂ := { whitePixel with inBuf := [(0, 255), (1, 255), (2, 255)] }
    (Instr.bayer0 1 4).wellFormed = true ∧ whitePixel.disturbed = false ∧ s₂.disturbed = false ∧
      (∀ k c, k < 4 / 4 → c < 3 →
        readCell whitePixel.inBuf (byteAddr k c) = readCell s₂.inBuf (byteAddr k c)) ∧
      whitePixel.rngAsks = s₂.rngAsks ∧ whitePixel.draws = s₂.draws ∧
      (∃ t, exec (.bayer0 1 4) whitePixel = .next t ∧ t.done = true) ∧
      (∃ t, exec (.bayer0 1 4) s₂ = .next t) ∧ InputWritten (.bayer0 1 4) whitePixel 0 := by
  refine ⟨by decide, rfl, rfl, fun k c hk hc => ?_, rfl, rfl,
    exec_done_of_good _ _ (by decide) goodShape_one (by rw [Instr.tag]; decide), ⟨_, rfl⟩,
    whitePixel_input _⟩
  obtain rfl : k = 0 := by omega
  match c, hc with
  | 0, _ => rfl
  | 1, _ => rfl
  | 2, _ => rfl

theorem witness_SinglePixelFloydSteinbergIsQuantise :
    whitePixel.disturbed = false ∧ ColorWritten whitePixel 0 ∧ 4 ≤ 4 :=
  ⟨rfl, whitePixel_written, le_rfl⟩

theorem witness_ResultDependsOnInputsOnly :
    let s₂ := { whitePixel with storeEra := 5, err := true, errcode := 2 }
    (Instr.bayer0 1 4).wellFormed = true ∧ whitePixel.disturbed = false ∧ s₂.disturbed = false ∧
      (∀ a, a < 4 → inByte chip whitePixel a = inByte chip s₂ a) ∧
      whitePixel.rngAsks = s₂.rngAsks ∧ whitePixel.draws = s₂.draws ∧
      (∃ t, exec (.bayer0 1 4) whitePixel = .next t ∧ t.done = true) ∧
      (∃ t, exec (.bayer0 1 4) s₂ = .next t) ∧ InputWritten (.bayer0 1 4) whitePixel (3 / 4) ∧
      InputWritten (.bayer0 1 4) s₂ (3 / 4) :=
  ⟨by decide, rfl, rfl, fun _ _ => rfl, rfl, rfl,
    exec_done_of_good _ _ (by decide) goodShape_one (by rw [Instr.tag]; decide), ⟨_, rfl⟩,
    whitePixel_input _, whitePixel_input _⟩

theorem witness_RepeatedCommandGivesTheSameOutput :
    (Instr.grayscale 1 4).wellFormed = true ∧ whitePixel.disturbed = false ∧
      (∀ width nbytes, Instr.grayscale 1 4 ≠ .whiteNoise width nbytes) ∧
      (∃ t u, exec (.grayscale 1 4) whitePixel = .next t ∧ exec (.grayscale 1 4) t = .next u) ∧
      InputWritten (.grayscale 1 4) whitePixel (0 / 4) :=
  ⟨by decide, rfl, fun _ _ h => (by cases h), ⟨_, _, rfl, rfl⟩, whitePixel_input _⟩

theorem witness_DisturbedCommandStillEnds :
    (Instr.quantise 1 4).wellFormed = true ∧
      { State.reset with disturbed := true }.disturbed = true := by decide

theorem witness_black_and_white_image :
    GoodShape chip 1 4 ∧ whitePixel.disturbed = false ∧
      (∀ j, j ≤ 3 / 4 → ColorWritten whitePixel j) ∧
      ∀ i, i < 4 / 4 → PureBlackOrWhite chip whitePixel i := by
  refine ⟨goodShape_one, rfl, fun j hj => Nat.le_zero.mp hj ▸ whitePixel_written,
    fun i hi => Or.inr ?_⟩
  obtain rfl : i = 0 := by omega
  exact ⟨rfl, rfl, rfl⟩

theorem inv_reset : Inv chip State.reset := by
  refine ⟨⟨by decide, by decide, by decide, by decide⟩, by decide, by decide, rfl, ?_⟩
  exact ⟨by simp [State.reset], by simp [State.reset], by simp [State.reset], by simp [State.reset],
    by simp [State.reset]⟩

theorem inv_started : Inv chip started :=
  ⟨⟨by decide, by decide, by decide, by decide⟩, by decide, by decide, rfl, inv_reset.2.2.2.2⟩

theorem inv_inKernel : Inv chip inKernel :=
  ⟨⟨by decide, by decide, by decide, by decide⟩, by decide, by decide,
    ⟨⟨by decide, by decide, by decide, by decide, Config.chip.maxPix_pos⟩, by decide⟩,
    inv_reset.2.2.2.2⟩

theorem witness_sequencer_statements :
    (Inv chip inKernel ∧ inKernel.phase ≠ .idle) ∧ (Inv chip started ∧ started.phase = .check) :=
  ⟨⟨inv_inKernel, by decide⟩, inv_started, rfl⟩

theorem witness_EveryStepKeepsTheInvariant :
    (∃ t, Inv chip inKernel ∧ step inKernel = .next t) ∧
      ∃ t, Inv chip (withMove .tick) ∧ step (withMove .tick) = .next t :=
  ⟨⟨_, inv_inKernel, rfl⟩, _, inv_reset, rfl⟩

theorem witness_LuminanceStoreHoldsFormatValues :
    ∃ t, LumIsFmt chip { inKernel with lum := [(0, 0)] } ∧
      step { inKernel with lum := [(0, 0)] } = .next t :=
  ⟨_, fun c hc => by rw [List.mem_singleton.mp hc]; exact if_pos rfl, rfl⟩

theorem witness_register_moves :
    (withMove (.writeReg 5 0xFFFFFFFF)).host = .writeReg 5 0xFFFFFFFF :: [] ∧ 5 ≠ 0 ∧
      (withMove (.readReg 6)).host = .readReg 6 :: [] := by decide

theorem witness_StartLatchesTheOperands :
    (withMove (.writeReg 0 0xFFFFFFFF)).host = .writeReg 0 0xFFFFFFFF :: [] ∧
      (0xFFFFFFFF : Word).toNat % 2 = 1 ∧ (withMove (.writeReg 0 0xFFFFFFFF)).busy = false := by
  decide

theorem witness_OtherControlWritesDoNothing :
    (withMove (.writeReg 0 0xFFFFFFFE)).host = .writeReg 0 0xFFFFFFFE :: [] ∧
      (0xFFFFFFFE : Word).toNat % 2 = 0 ∧
      { started with host := [.writeReg 0 1] }.host = .writeReg 0 1 :: [] ∧
      { started with host := [.writeReg 0 1] }.busy = true := by decide

theorem witness_buffer_moves :
    (0 < 4 * chip.maxPix ∧ 4 * chip.maxPix - 1 < 4 * chip.maxPix) ∧
      (withMove (.writeIn 0 5)).host = .writeIn 0 5 :: [] ∧
      (withMove (.writeOut 0 5)).host = .writeOut 0 5 :: [] ∧
      (withMove (.readIn 0)).host = .readIn 0 :: [] ∧
      (withMove (.readOut 0)).host = .readOut 0 :: [] ∧ (withMove (.readOut 0)).busy = false ∧
      { started with host := [.readOut 0] }.host = .readOut 0 :: [] ∧
      { started with host := [.readOut 0] }.busy = true := by
  have h0 : 0 < chip.maxPix := Config.chip.maxPix_pos
  exact ⟨⟨by omega, by omega⟩, rfl, rfl, rfl, rfl, rfl, rfl, rfl⟩

theorem witness_AddressOutsideTheBuffersFaults :
    4 * chip.maxPix ≤ 4 * chip.maxPix ∧
      (withMove (.readIn (4 * chip.maxPix))).host = .readIn (4 * chip.maxPix) :: [] := ⟨le_rfl, rfl⟩

theorem witness_ResetInputClearsTheRegisters :
    { started with host := [.reset] }.host = .reset :: [] := rfl

theorem witness_IdleBlockDoesNothing : State.reset.phase = .idle ∧ State.reset.host = [] := by
  decide

theorem witness_matrix_statements :
    15 < 2 ^ (3 + 1) ∧ 0 < 2 ^ (3 + 1) ∧ 3 ≤ 3 ∧ State.reset.idx = 0 ∧
      (255 : Byte).toNat < 4 ^ (3 + 1) ∧ 256 ≤ 2 ^ (3 + 1) * 2 ^ (3 + 1) := by decide

theorem witness_ThresholdsBelowCountIsCeil : (0 : Rat) ≤ 1 ∧ (1 : Rat) ≤ 1 := by decide +kernel

/-- A 2 by 2 image of white pixels. -/
def whiteImage : State := imageState (gray 255 ++ gray 255 ++ gray 255 ++ gray 255)

/-- Four pixels of one luminance make a full tile of Bayer0. MAXPIX is open, so that the shape is good
wherever MAXPIX allows four pixels, as the admitted configuration with the largest MAXPIX does. -/
theorem witness_ConstantTileHoldsCeilWhitePixels :
    (4 ≤ chip.maxPix → GoodShape chip 2 16) ∧ GoodShape (default : Config).toParams 2 16 ∧
      whiteImage.disturbed = false ∧ (0 + 1) * 2 ^ (0 + 1) ≤ 2 ∧ (0 + 1) * 2 ^ (0 + 1) ≤ 16 / 4 / 2 ∧
      ∀ r k, r < 2 → k < 2 →
        ColorWritten whiteImage ((0 * 2 + r) * 2 + (0 * 2 + k)) ∧
          pixelLum chip whiteImage ((0 * 2 + r) * 2 + (0 * 2 + k)) = lumOf chip 255 255 255 := by
  refine ⟨fun h => ⟨by decide, by decide, by decide, by decide, by decide, h⟩,
    ⟨by decide, by decide, by decide, by decide, by decide, by decide⟩, rfl, by decide, by decide,
    fun r k hr hk => ⟨fun c hc => ⟨255, ?_⟩, ?_⟩⟩
  · interval_cases r <;> interval_cases k <;> interval_cases c <;> rfl
  · interval_cases r <;> interval_cases k <;> rfl

/-- An image of 3 by 3 pixels in the latched operands: the pixel (1, 1) has all four neighbours. -/
def threeByThree : State :=
  { State.reset with lat := { w := 3, nb := 36, m := 0b111, n := 9, h := 3 } }

theorem witness_SharesReachExactlyTheNeighbours :
    1 < threeByThree.lat.w.toNat ∧ 1 < threeByThree.lat.h.toNat ∧
      2 < threeByThree.lat.w.toNat ∧ 2 < threeByThree.lat.h.toNat ∧
      0 < threeByThree.lat.w.toNat ∧
      threeByThree.lat.w.toNat * threeByThree.lat.h.toNat ≤ 9 := by decide

theorem witness_DiffusedPixelsAreFinal : 0 < threeByThree.lat.w.toNat ∧ 4 < 5 := by decide

theorem witness_PointwiseWorkCommutes : CellsOk chip State.reset ∧ 0 ≠ 1 :=
  ⟨inv_reset.2.2.2.2, by decide⟩
end

/-! ## A successful command and the alpha bytes (spec/10_state.md R47) -/

namespace Sys2Proof.Machine

/-! ### The state at KERNEL, field by field -/

/-- A command leaves IN alone up to its kernel (R57). -/
theorem AtKernel.inBuf_eq {i : Instr} {s k : State} (h : AtKernel i s k) : k.inBuf = s.inBuf :=
  (congrArg State.inBuf h.frame :)

/-- The mark that the host wrote a buffer meanwhile is not touched up to the kernel (R67). -/
theorem AtKernel.disturbed_eq {i : Instr} {s k : State} (h : AtKernel i s k) :
    k.disturbed = s.disturbed :=
  (congrArg State.disturbed h.frame :)

/-- While the command runs, DONE is clear (R27). -/
theorem AtKernel.done_eq {i : Instr} {s k : State} (h : AtKernel i s k) : k.done = false :=
  (congrArg State.done h.frame :)

/-! ### What success says -/

/-- Of the three things a command can do (`exec_cases`) only the last sets DONE: both failures leave
the cleared flag of START (R196). So a command that succeeds has run its kernel, and OUT is what
ENCODE made of LUM and ALPHA, up to what `endSuccess` frees. -/
theorem exec_done {i : Instr} {s t : State} (hwf : i.wellFormed = true) (he : exec i s = .next t)
    (hdone : t.done = true) :
    ∃ k l o d, AtKernel i s k ∧
      forRange (kernelPixel chip i.tag) (i.nbytes / 4) 0 k = { k with lum := l, draws := d } ∧
      t = endSuccess chip { k with phase := .encode, lum := l, outBuf := o, draws := d } ∧
      ∀ a, a < i.nbytes → readCell o a =
        some (if a % 4 = 3 then pixelAlpha chip s (a / 4)
          else grayByte chip ((readCell l (a / 4)).getD (chip.freeLum s.storeEra (a / 4)))) := by
  rcases exec_cases s hwf with ⟨-, e⟩ | ⟨-, -, -, k, hk, e⟩ | ⟨-, -, k, l, o, hk, hl, e, ho⟩ <;>
    obtain rfl := Host.Outcome.next.inj (e.symm.trans he)
  case inl =>
    rw [raise_done, beginCommand_done] at hdone
    cases hdone
  case inr.inl =>
    rw [raise_done, hk.done_eq] at hdone
    cases hdone
  case inr.inr =>
    exact ⟨k, l, o, _, hk, hl, rfl, fun a ha => (ho a).trans (if_pos ha)⟩

/-- Settles O13: DECODE copies the alpha byte to ALPHA, no kernel writes ALPHA, ENCODE copies it to
OUT, and the end of the command frees only pixels that are not specified. -/
theorem alphaIsNeverModified : Obligations.AlphaIsNeverModified := by
  intro i s t hwf hdist he hdone k hk hw
  obtain ⟨c, l, o, d, hc, -, rfl, ho⟩ := exec_done hwf he hdone
  obtain ⟨htag, -⟩ := hc.latched
  have hpix : (4 * k + 3) / 4 = k := by omega
  have hencoded : readCell o (4 * k + 3) = some (pixelAlpha chip s k) := by
    rw [ho _ (by omega), if_pos (by omega), hpix]
  have hkept := readCell_endSuccess_specified (p := chip) (i := i) (s := s) (a := 4 * k + 3)
    (k := { c with phase := .encode, lum := l, outBuf := o, draws := d })
    htag hc.inBuf_eq (hc.disturbed_eq.trans hdist) (hpix.symm ▸ hw)
  exact hkept.trans hencoded

end Sys2Proof.Machine

/-! ## The Bayer matrices (spec/41_bayer_matrix.md) -/

namespace Sys2Proof.Machine

/-! ### The base pattern and the base case of the recursion -/

/-- The matrix of order 0 is the base pattern itself (R126). -/
theorem bayerEntry_zero (r c : Nat) : bayerEntry 0 r c = cornerOffset r c := rfl

/-- The corner at row 0, column 0 (R126). -/
@[simp] theorem cornerOffset_zero_zero : cornerOffset 0 0 = 0 := rfl

/-- The corner at row 0, column 1 (R126). -/
@[simp] theorem cornerOffset_zero_one : cornerOffset 0 1 = 2 := rfl

/-- The corner at row 1, column 0 (R126). -/
@[simp] theorem cornerOffset_one_zero : cornerOffset 1 0 = 3 := rfl

/-- The corner at row 1, column 1 (R126). -/
@[simp] theorem cornerOffset_one_one : cornerOffset 1 1 = 1 := rfl

/-- Settles O41: order 0 is the base pattern, read at its four corners in row-major order. -/
theorem baseMatrixIsTheFixedPattern : Obligations.BaseMatrixIsTheFixedPattern :=
  ⟨(bayerEntry_zero 0 0).trans cornerOffset_zero_zero,
    (bayerEntry_zero 0 1).trans cornerOffset_zero_one,
    (bayerEntry_zero 1 0).trans cornerOffset_one_zero,
    (bayerEntry_zero 1 1).trans cornerOffset_one_one⟩

end Sys2Proof.Machine

/-! ## Binary output (spec/42_dither_pointwise.md R144) -/

namespace Sys2Proof.Machine

variable {p : Params}

/-! ### Every thresholding kernel decides its own pixel and leaves the earlier ones alone -/

/-- The thresholding primitive has two answers (R140). -/
theorem thr_eq_zero_or_one (x t : FmtVal) : thr x t = 0 ∨ thr x t = 1 := by
  unfold thr
  split
  · exact Or.inr rfl
  · exact Or.inl rfl

/-- A share of the error that is added after entry `k` leaves `LUM[k]` alone (R171, R175). -/
theorem readCell_addLumIf_of_lt {c : Bool} {j k : Nat} (v : FmtVal) (s : State)
    (h : c = true → k < j) : readCell (addLumIf p c j v s).lum k = readCell s.lum k := by
  obtain ⟨l, e, hl⟩ := addLumIf_spec (p := p) c j v s
  rw [e]
  exact (hl k).trans (if_neg fun ⟨hc, hk⟩ => (h hc).ne hk)

/-- The error of pixel `i` is distributed to later pixels only; the share to the bottom left is no
exception, since in a single column there is no pixel to the left (R171, R174). -/
theorem readCell_diffuse_of_le {i k : Nat} (e : FmtVal) {s : State} (hw : 1 ≤ s.lat.w.toNat)
    (hk : k ≤ i) : readCell (diffuse p i e s).lum k = readCell s.lum k := by
  have hleft : 0 < colOf s.lat.w.toNat i → 1 < s.lat.w.toNat := fun h =>
    lt_of_le_of_lt h (Nat.mod_lt i hw)
  unfold diffuse
  rw [readCell_addLumIf_of_lt, readCell_addLumIf_of_lt, readCell_addLumIf_of_lt,
    readCell_addLumIf_of_lt]
  case h => intro; omega
  case h =>
    intro h
    rw [Bool.and_eq_true, decide_eq_true_eq] at h
    have := hleft h.1
    omega
  case h => intro; omega
  case h => intro; omega

/-- The step of every kernel but Grayscale's at pixel `i`, as seen in LUM up to `i`: the entry of `i`
becomes the answer of a threshold comparison, the entries before keep their values
(R142, R148, R155, R172). -/
theorem readCell_kernelPixel_of_le {m : BitVec 3} (hm : m ≠ 0b000#3) (i : Nat) {s : State}
    (hw : 1 ≤ s.lat.w.toNat) :
    ∃ t, ∀ k, k ≤ i → readCell (kernelPixel p m i s).lum k =
      if k = i then some (thr (lumAt p s i) t) else readCell s.lum k := by
  unfold kernelPixel
  rw [if_neg hm]
  by_cases hq : m = 0b001#3
  · rw [if_pos hq]
    exact ⟨k0_5 p.fmt, fun k _ => readCell_writeCell _ _ _ _⟩
  rw [if_neg hq]
  by_cases hn : m = 0b010#3
  · rw [if_pos hn]
    exact ⟨p.draw s.draws, fun k _ => readCell_writeCell _ _ _ _⟩
  rw [if_neg hn]
  by_cases hf : m = 0b111#3
  · rw [if_pos hf]
    refine ⟨k0_5 p.fmt, fun k hk => ?_⟩
    exact (readCell_diffuse_of_le _ (s := setLum i _ s) hw hk).trans (readCell_writeCell _ _ _ _)
  · rw [if_neg hf]
    exact ⟨bayerThreshold p (bayerOrder m) i s, fun k _ => readCell_writeCell _ _ _ _⟩

/-- No kernel changes the latched operands. -/
theorem kernelPixel_lat (m : BitVec 3) (i : Nat) (s : State) :
    (kernelPixel p m i s).lat = s.lat := by
  obtain ⟨l, e⟩ := kernelLoop_only (p := p) m 1 i s
  exact (congrArg State.lat e :)

/-! ### The luminances after the kernel -/

/-- The listed luminance of pixel `k` is exactly 0 or 1. -/
def BinaryLum (s : State) (k : Nat) : Prop :=
  readCell s.lum k = some 0 ∨ readCell s.lum k = some 1

/-- A thresholding step at pixel `i` extends the binary luminances from the pixels before `i` to
`i` itself. -/
theorem binaryLum_kernelPixel {m : BitVec 3} (hm : m ≠ 0b000#3) {i : Nat} {s : State}
    (hw : 1 ≤ s.lat.w.toNat) (hs : ∀ k, k < i → BinaryLum s k) {k : Nat} (hk : k < i + 1) :
    BinaryLum (kernelPixel p m i s) k := by
  obtain ⟨t, ht⟩ := readCell_kernelPixel_of_le (p := p) hm i hw
  unfold BinaryLum
  rw [ht k (by omega)]
  by_cases hki : k = i
  · rw [if_pos hki]
    exact (thr_eq_zero_or_one _ t).imp (congrArg some) (congrArg some)
  · rw [if_neg hki]
    exact hs k (by omega)

/-- After the first `count` steps of a thresholding kernel the first `count` luminances are binary:
each became so at its own step and no later step writes it (R144, R172). -/
theorem binaryLum_kernelLoop {m : BitVec 3} (hm : m ≠ 0b000#3) {s : State}
    (hw : 1 ≤ s.lat.w.toNat) (count : Nat) :
    ∀ k, k < count → BinaryLum (forRange (kernelPixel p m) count 0 s) k := by
  have h := forRange_induct (f := kernelPixel p m) (count := count) (start := 0) (s := s)
    (P := fun i t => t.lat = s.lat ∧ ∀ k, k < i → BinaryLum t k)
    ⟨rfl, fun k hk => absurd hk k.not_lt_zero⟩
    fun i t _ _ ⟨hlat, ht⟩ => ⟨(kernelPixel_lat m i t).trans hlat,
      fun _ => binaryLum_kernelPixel hm (hlat ▸ hw) ht⟩
  rw [Nat.zero_add] at h
  exact h.2

/-! ### The bytes of a binary luminance -/

theorem mulF_zero_left (f : Fmt) (x : FmtVal) : mulF f 0 x = 0 := by simp [mulF, rnd]

theorem mulF_zero_right (f : Fmt) (x : FmtVal) : mulF f x 0 = 0 := by simp [mulF, rnd]

/-- The break point of `gam` separates the luminances 0 and 1 in both formats (R111). -/
theorem k0031308_bounds (f : Fmt) : 0 ≤ k0031308 f ∧ k0031308 f < 1 := by
  cases f <;> decide +kernel

/-- `gam(0) = 0`, on the linear branch (R111). -/
theorem gam_zero (p : Params) : gam p 0 = 0 := by
  rw [gam, if_pos (k0031308_bounds p.fmt).1, mulF_zero_right]

/-- `gam(1)` is on the branch of the power, which is 1 there by property P1 (R104, R111). -/
theorem gam_one (h : p.pow 1 (kInv2_4 p.fmt) = 1) :
    gam p 1 = subF p.fmt (mulF p.fmt (k1055 p.fmt) 1) (k055 p.fmt) := by
  rw [gam, if_neg (not_le.mpr (k0031308_bounds p.fmt).2), h]

/-- The conversion to 8 bits makes up for `gam(1)` being below 1, in both formats (R113, R114). -/
theorem saturate8_gam_one (f : Fmt) :
    saturate8 (roundAway (mulF f (subF f (mulF f (k1055 f) 1) (k055 f)) (k255 f))) = 255 := by
  cases f <;> decide +kernel

/-- The luminance 0 encodes to black (R114). -/
theorem grayByte_zero (p : Params) : grayByte p 0 = 0 := by
  have hclamp : clamp01 0 = 0 := by decide +kernel
  have hround : saturate8 (roundAway 0) = 0 := by decide +kernel
  rw [grayByte, hclamp, gam_zero, toU8, mulF_zero_left, hround]

/-- The luminance 1 encodes to white (R114). -/
theorem grayByte_one (h : p.pow 1 (kInv2_4 p.fmt) = 1) : grayByte p 1 = 255 := by
  have hclamp : clamp01 1 = 1 := by decide +kernel
  rw [grayByte, hclamp, gam_one h, toU8, saturate8_gam_one]

/-- The power function of the machine has property P1 of R104. -/
theorem chip_pow_one : chip.pow 1 (kInv2_4 chip.fmt) = 1 :=
  Config.chip.pow_admitted.one _ (Or.inr rfl)

/-! ### The pixels of a successful command -/

/-- Only Grayscale has the tag 0 (R78). -/
theorem tag_ne_zero {i : Instr} (h : ∀ width nbytes, i ≠ .grayscale width nbytes) :
    i.tag ≠ 0b000#3 := by
  cases i with
  | grayscale width nbytes => exact absurd rfl (h width nbytes)
  | _ => simp [Instr.tag]

/-- A command that succeeds has passed CHECK (R193). -/
theorem goodShape_of_done {i : Instr} {s t : State} (hwf : i.wellFormed = true)
    (he : exec i s = .next t) (hdone : t.done = true) : GoodShape chip i.width i.nbytes := by
  by_contra hbad
  obtain rfl := Host.Outcome.next.inj ((exec_bad hwf hbad).symm.trans he)
  rw [raise_done, beginCommand_done] at hdone
  cases hdone

/-- A pixel of OUT, from its four bytes by channel (R52). -/
theorem outPixelIs_of_channels {t : State} {j : Nat} {g a : Byte}
    (h : ∀ c, c < 4 → readCell t.outBuf (byteAddr j c) = some (if c = 3 then a else g)) :
    OutPixelIs t j g a :=
  ⟨h 0 (by decide), h 1 (by decide), h 2 (by decide), h 3 (by decide)⟩

/-- A successful command that the host has not disturbed leaves in every specified pixel of OUT the
gray byte of what its kernel left in LUM, and the pixel's own alpha (R112, R47, R219). -/
theorem outPixelIs_of_done {i : Instr} {s t : State} (hwf : i.wellFormed = true)
    (hdist : s.disturbed = false) (he : exec i s = .next t) (hdone : t.done = true) :
    ∃ c, AtKernel i s c ∧ ∀ j, j < i.nbytes / 4 → InputWritten i s j →
      OutPixelIs t j
        (grayByte chip (lumAt chip (forRange (kernelPixel chip i.tag) (i.nbytes / 4) 0 c) j))
        (pixelAlpha chip s j) := by
  obtain ⟨c, l, o, d, hc, hloop, rfl, ho⟩ := exec_done hwf he hdone
  refine ⟨c, hc, fun j hj hw => outPixelIs_of_channels fun ch hch => ?_⟩
  obtain ⟨htag, -⟩ := hc.latched
  have hera : c.storeEra = s.storeEra := (congrArg State.storeEra hc.frame :)
  have hlum : lumAt chip (forRange (kernelPixel chip i.tag) (i.nbytes / 4) 0 c) j =
      (readCell l j).getD (chip.freeLum s.storeEra j) := by rw [hloop, ← hera]; rfl
  have hpix : byteAddr j ch / 4 = j := by unfold byteAddr; omega
  have hchan : byteAddr j ch % 4 = ch := by unfold byteAddr; omega
  have hencoded := ho (byteAddr j ch) (by unfold byteAddr; omega)
  rw [hpix, hchan, ← hlum] at hencoded
  have hkept := readCell_endSuccess_specified (p := chip) (i := i) (s := s) (a := byteAddr j ch)
    (k := { c with phase := .encode, lum := l, outBuf := o, draws := d })
    htag hc.inBuf_eq (hc.disturbed_eq.trans hdist) (hpix.symm ▸ hw)
  exact hkept.trans hencoded

/-- Settles O14: every kernel step but Grayscale's makes its pixel's luminance the answer of a
threshold comparison and writes no earlier pixel, and ENCODE turns 0 and 1 into 0 and 255. -/
theorem binaryCommandsEmitBlackOrWhite : Obligations.BinaryCommandsEmitBlackOrWhite := by
  constructor
  · intro s ⟨hw, _⟩ hm hidx k hk
    rw [pixelLoop_from_zero _ hidx]
    exact binaryLum_kernelLoop hm hw _ k hk
  · intro i s t hwf hdist hbin he hdone k hk hwritten
    obtain ⟨-, -, hwidth, -⟩ := goodShape_of_done hwf he hdone
    obtain ⟨c, hc, hout⟩ := outPixelIs_of_done hwf hdist he hdone
    obtain ⟨-, hlatw, -⟩ := hc.latched
    have hpixel := hout k hk hwritten
    rcases binaryLum_kernelLoop (p := chip) (tag_ne_zero hbin) (hlatw ▸ hwidth) _ k hk with h | h
    · rw [lumAt, h, Option.getD_some, grayByte_zero] at hpixel
      exact Or.inl hpixel
    · rw [lumAt, h, Option.getD_some, grayByte_one chip_pow_one] at hpixel
      exact Or.inr hpixel

end Sys2Proof.Machine

/-! ## What survives a command (spec/70_reset_and_hazards.md R220) -/

namespace Sys2Proof.Machine

variable {p : Params}

/-- The part of the state that belongs to the host across commands: WIDTH, NBYTES, METHOD and IN. -/
def operandsAndInput (s : State) : Word × Word × BitVec 3 × Memory :=
  (s.width, s.nbytes, s.method, s.inBuf)

theorem operandsAndInput_eq_iff {s t : State} :
    operandsAndInput t = operandsAndInput s ↔
      t.width = s.width ∧ t.nbytes = s.nbytes ∧ t.method = s.method ∧ t.inBuf = s.inBuf := by
  simp only [operandsAndInput, Prod.mk.injEq]

/-! ### The moves of the sequencer -/

@[simp] theorem operandsAndInput_enterPhase (ph : Phase) (s : State) :
    operandsAndInput (enterPhase ph s) = operandsAndInput s := rfl

@[simp] theorem operandsAndInput_beginCommand (tag : BitVec 3) (w nb : Word) (s : State) :
    operandsAndInput (beginCommand tag w nb s) = operandsAndInput s := rfl

@[simp] theorem operandsAndInput_passCheck (s : State) :
    operandsAndInput (passCheck s) = operandsAndInput s := rfl

@[simp] theorem operandsAndInput_leaveDecode (s : State) :
    operandsAndInput (leaveDecode s) = operandsAndInput s := rfl

@[simp] theorem operandsAndInput_raise (f : Failure) (s : State) :
    operandsAndInput (raise p f s) = operandsAndInput s := rfl

@[simp] theorem operandsAndInput_endSuccess (s : State) :
    operandsAndInput (endSuccess p s) = operandsAndInput s := by
  rw [endSuccess_eq]; rfl

/-! ### One pixel, or one matrix entry, of each phase -/

@[simp] theorem operandsAndInput_decodePixel (i : Nat) (s : State) :
    operandsAndInput (decodePixel p i s) = operandsAndInput s := rfl

@[simp] theorem operandsAndInput_buildEntry (n k : Nat) (s : State) :
    operandsAndInput (buildEntry n k s) = operandsAndInput s := rfl

@[simp] theorem operandsAndInput_kernelPixel (m : BitVec 3) (i : Nat) (s : State) :
    operandsAndInput (kernelPixel p m i s) = operandsAndInput s := by
  obtain ⟨l, e⟩ := kernelLoop_only (p := p) m 1 i s
  exact (congrArg operandsAndInput e :)

@[simp] theorem operandsAndInput_encodePixel (i : Nat) (s : State) :
    operandsAndInput (encodePixel p i s) = operandsAndInput s := rfl

/-! ### Operations that go on with a continuation -/

section Continuation

variable {rest : State → State} (hrest : ∀ s, operandsAndInput (rest s) = operandsAndInput s)
include hrest

theorem operandsAndInput_advance (limit : Nat) (s : State) :
    operandsAndInput (advance limit rest s) = operandsAndInput s := by
  rcases advance_cases limit rest s with ⟨-, e⟩ | ⟨-, e⟩
  · rw [e]; rfl
  · rw [e, hrest]

/-- CHECK keeps the operand registers and IN, whether it passes or fails (R193, R196). -/
theorem operandsAndInput_runCheck (s : State) :
    operandsAndInput (runCheck p rest s) = operandsAndInput s := by
  rcases runCheck_cases p rest s with ⟨-, e⟩ | ⟨-, e⟩
  · rw [e, hrest, operandsAndInput_passCheck]
  · rw [e, operandsAndInput_raise]

/-- Either answer of the random source keeps the operand registers and IN (R149, R196). -/
theorem operandsAndInput_askRandomSource (s : State) :
    operandsAndInput (askRandomSource p rest s) = operandsAndInput s := by
  rcases askRandomSource_cases p rest s with ⟨-, e⟩ | ⟨-, e⟩
  · rw [e, hrest]; rfl
  · rw [e, operandsAndInput_raise]; rfl

theorem operandsAndInput_startKernel (s : State) :
    operandsAndInput (startKernel p rest s) = operandsAndInput s := by
  unfold startKernel
  split
  · exact operandsAndInput_askRandomSource hrest s
  · exact hrest s

end Continuation

/-! ### Whole phases, and a command from a phase to its end -/

@[simp] theorem operandsAndInput_decodePhase (s : State) :
    operandsAndInput (decodePhase p s) = operandsAndInput s :=
  pixelLoop_keeps operandsAndInput operandsAndInput_decodePixel

@[simp] theorem operandsAndInput_buildPhase (n : Nat) (s : State) :
    operandsAndInput (buildPhase n s) = operandsAndInput s :=
  forRange_keeps operandsAndInput (operandsAndInput_buildEntry n)

@[simp] theorem operandsAndInput_encodeAndEnd (s : State) :
    operandsAndInput (encodeAndEnd p s) = operandsAndInput s :=
  (operandsAndInput_endSuccess _).trans
    (pixelLoop_keeps operandsAndInput operandsAndInput_encodePixel)

@[simp] theorem operandsAndInput_kernelAndEncode (m : BitVec 3) (s : State) :
    operandsAndInput (kernelAndEncode p (kernelPixel p m) s) = operandsAndInput s :=
  (operandsAndInput_encodeAndEnd _).trans
    (pixelLoop_keeps operandsAndInput (operandsAndInput_kernelPixel m))

@[simp] theorem operandsAndInput_resumeKernel (s : State) :
    operandsAndInput (resumeKernel p s) = operandsAndInput s :=
  operandsAndInput_startKernel (fun _ => operandsAndInput_kernelAndEncode _ _) s

theorem operandsAndInput_resumeDecode (s : State) :
    operandsAndInput (resumeDecode p s) = operandsAndInput s := by
  cases hb : isBayer s.lat.m with
  | false => simp [resumeDecode_plain hb]
  | true => simp [resumeDecode_bayer hb]

/-! ### Whole commands and single transitions -/

/-- A whole command is one run of the sequencer from CHECK (`exec_eq_run`), on any state and for any
operands. -/
theorem operandsAndInput_of_exec {i : Instr} {s t : State} (h : exec i s = .next t) :
    operandsAndInput t = operandsAndInput s := by
  obtain rfl := Host.Outcome.next.inj ((exec_eq_run i s).symm.trans h)
  rw [operandsAndInput_runCheck operandsAndInput_resumeDecode, operandsAndInput_beginCommand]

theorem operandsAndInput_seqStep (s : State) :
    operandsAndInput (seqStep p s) = operandsAndInput s := by
  rcases seqStep_cases p s with
    ⟨-, idle⟩ | ⟨-, check⟩ | ⟨-, decode⟩ | ⟨-, build⟩ | ⟨-, kernel⟩ | ⟨-, encode⟩
  · rw [idle]
  · rw [check]
    exact operandsAndInput_runCheck (fun _ => rfl) s
  · rw [decode, operandsAndInput_advance operandsAndInput_leaveDecode,
      operandsAndInput_decodePixel]
  · rw [build, operandsAndInput_advance (operandsAndInput_enterPhase .kernel),
      operandsAndInput_buildEntry]
  · rw [kernel]
    refine operandsAndInput_startKernel (fun t => ?_) s
    rw [operandsAndInput_advance (operandsAndInput_enterPhase .encode),
      operandsAndInput_kernelPixel]
  · rw [encode, operandsAndInput_advance operandsAndInput_endSuccess,
      operandsAndInput_encodePixel]

/-- Settles O15: no phase and neither end of a command writes an operand register or IN, so a whole
command keeps them, and so does every single transition of the sequencer. -/
theorem operandRegistersAndInputSurviveCommands :
    Obligations.OperandRegistersAndInputSurviveCommands :=
  ⟨fun _ _ _ h => operandsAndInput_eq_iff.mp (operandsAndInput_of_exec h),
    fun s => operandsAndInput_eq_iff.mp (operandsAndInput_seqStep s)⟩

end Sys2Proof.Machine

/-! ## Encoding and decoding (spec/30_encoding.md) -/

namespace Sys2Proof

/-! ### The command a tag selects -/

/-- The tag of a decoded command is the tag it was decoded from, the last case of `commandOf`
included: a 3-bit field has only eight values (R83). -/
@[simp] theorem tag_commandOf (tag : BitVec 3) (width nbytes : Nat) :
    (commandOf tag width nbytes).tag = tag := by
  have h : tag = 0 ∨ tag = 1 ∨ tag = 2 ∨ tag = 3 ∨ tag = 4 ∨ tag = 5 ∨ tag = 6 ∨ tag = 7 := by
    decide +revert
  rcases h with rfl | rfl | rfl | rfl | rfl | rfl | rfl | rfl <;> rfl

@[simp] theorem width_commandOf (tag : BitVec 3) (width nbytes : Nat) :
    (commandOf tag width nbytes).width = width := by
  unfold commandOf; split_ifs <;> rfl

@[simp] theorem nbytes_commandOf (tag : BitVec 3) (width nbytes : Nat) :
    (commandOf tag width nbytes).nbytes = nbytes := by
  unfold commandOf; split_ifs <;> rfl

/-- A command is the one that its tag selects (R78). -/
@[simp] theorem commandOf_tag (i : Instr) : commandOf i.tag i.width i.nbytes = i := by
  cases i <;> rfl

/-- A command is well-formed when its operands fit their registers (R75). -/
theorem wellFormed_iff {i : Instr} :
    i.wellFormed = true ↔ i.width < 2 ^ 32 ∧ i.nbytes < 2 ^ 32 := by
  simp only [Instr.wellFormed, Instr.widthFits, Instr.nbytesFits, Bool.and_eq_true,
    decide_eq_true_eq]

/-- The tag is METHOD modulo 8: the reserved bits are ignored (R23, R75). -/
theorem toNat_tagOf (method : Word) : (tagOf method).toNat = method.toNat % 8 := by
  rw [tagOf, BitVec.extractLsb'_toNat, Nat.shiftRight_zero]

/-- Settles O1: the encoding's three words carry the tag and, for a well-formed command, both
operands, and the tag selects the command. -/
theorem decodeInvertsEncode : Obligations.DecodeInvertsEncode := by
  intro i rest hwf
  obtain ⟨method, width, nbytes, henc, -, htag, hops⟩ := Laws.EncodingShape.statement_of i
  obtain ⟨hwidth, hnbytes⟩ := hops hwf
  rw [henc]
  change Except.ok (decodeCommand method width nbytes, rest) = _
  rw [decodeCommand, htag, hwidth, hnbytes, commandOf_tag]

/-- Settles O2: the tag, widened back to a word, is METHOD with its upper bits masked off. -/
theorem encodeOfDecodedClearsReservedBits : Obligations.EncodeOfDecodedClearsReservedBits := by
  intro method width nbytes
  have hmethod : (tagOf method).setWidth 32 = method &&& 7 := by
    refine BitVec.eq_of_toNat_eq ?_
    rw [(Laws.EncodingShape.tag_word _).1, toNat_tagOf, BitVec.toNat_and]
    exact (Nat.and_two_pow_sub_one_eq_mod _ 3).symm
  simp [encode, decodeCommand, hmethod]

/-- Settles O3: decoding copies the operand registers, which bound them. -/
theorem decodedCommandCarriesItsRegisters : Obligations.DecodedCommandCarriesItsRegisters := by
  intro method width nbytes
  refine ⟨wellFormed_iff.mpr ?_, ?_, width_commandOf _ _ _, nbytes_commandOf _ _ _⟩
  · rw [decodeCommand, width_commandOf, nbytes_commandOf]
    exact ⟨width.isLt, nbytes.isLt⟩
  · rw [decodeCommand, tag_commandOf, toNat_tagOf]

/-- Settles O4: each word of the table is decoded. -/
theorem tableWordsDecodeToTheirCommands : Obligations.TableWordsDecodeToTheirCommands := by
  unfold Obligations.TableWordsDecodeToTheirCommands
  decide

end Sys2Proof

/-! ## One step, by what the host does (spec/10_state.md, spec/20_memory.md section 7) -/

namespace Sys2Proof.Machine

/-! ### The step of each move -/

/-- A move other than `wait` is made, and taken off the list (log 3). -/
theorem step_of_move {s : State} {m : HostMove} {rest : List HostMove} (hm : m ≠ .wait)
    (h : s.host = m :: rest) : step s = hostMove chip m { s with host := rest } := by
  unfold step
  rw [h]
  cases m with
  | wait => exact absurd rfl hm
  | _ => rfl

/-- At `wait` the block runs. -/
theorem step_of_wait {s : State} {rest : List HostMove} (h : s.host = .wait :: rest) :
    step s = blockRun { s with host := rest } := by
  unfold step; rw [h]

/-- With no move left the block runs. -/
theorem step_of_no_move {s : State} (h : s.host = []) : step s = blockRun s := by
  unfold step; rw [h]

theorem blockRun_of_check {s : State} (h : s.phase = .check) :
    blockRun s = exec (fetch s) s := by
  unfold blockRun; rw [h]

theorem blockRun_of_ne_check {s : State} (h : s.phase ≠ .check) :
    blockRun s = .next (resume chip s) := by
  unfold blockRun
  split
  · exact absurd ‹_› h
  · rfl

/-- Settles O5: the latched words decode to the command fetched, and a step is the run of the block
or the host's move. -/
theorem stepRunsTheFetchedCommand : Obligations.StepRunsTheFetchedCommand := by
  refine ⟨fun s i left rest hphase hdec _ => ?_, fun s rest hphase => ?_, fun s rest hhost => ?_⟩
  · rw [decode_fetchWords] at hdec
    obtain ⟨rfl, -⟩ := Prod.mk.inj (Except.ok.inj hdec)
    exact ⟨fun h => (step_of_no_move h).trans (blockRun_of_check hphase),
      fun h => (step_of_wait h).trans (blockRun_of_check (s := { s with host := rest }) hphase)⟩
  · exact ⟨fun h => (step_of_no_move h).trans (blockRun_of_ne_check hphase),
      fun h => (step_of_wait h).trans (blockRun_of_ne_check (s := { s with host := rest }) hphase)⟩
  · exact step_of_move (by simp) hhost

/-! ### Registers -/

/-- A write to a register other than CTRL, as one record (R21 to R24, R26, R28). -/
theorem writeRegister_of_ne_zero {reg : Nat} (h : reg ≠ 0) (v : Word) (s : State) :
    writeRegister reg v s =
      { s with
        width := if reg = 3 then v else s.width
        nbytes := if reg = 4 then v else s.nbytes
        method := if reg = 5 then tagOf v else s.method } := by
  unfold writeRegister
  split
  · exact absurd rfl h
  · rfl
  · rfl
  · rfl
  · rw [if_neg ‹_›, if_neg ‹_›, if_neg ‹_›]

/-- Settles O31: the step is the register write. -/
theorem registerWritesReachTheirRegister : Obligations.RegisterWritesReachTheirRegister := by
  intro s reg v rest hhost hreg
  have htag : BitVec.ofNat 3 (v.toNat % 8) = tagOf v :=
    BitVec.eq_of_toNat_eq (by rw [toNat_tagOf, BitVec.toNat_ofNat, Nat.mod_mod])
  rw [step_of_move (by simp) hhost, htag]
  exact congrArg _ (writeRegister_of_ne_zero hreg v _)

/-- The flags in STATUS (R26). -/
theorem toNat_statusWord (s : State) :
    (statusWord s).toNat = s.busy.toNat + 2 * s.done.toNat + 4 * s.err.toNat := by
  unfold statusWord
  cases s.busy <;> cases s.done <;> cases s.err <;> rfl

/-- The number a register reads as (R23 to R28, R85). -/
theorem toNat_readRegister (s : State) (reg : Nat) :
    (readRegister s reg).toNat =
      if reg = 1 then s.busy.toNat + 2 * s.done.toNat + 4 * s.err.toNat
      else if reg = 2 then s.errcode.toNat
      else if reg = 3 then s.width.toNat
      else if reg = 4 then s.nbytes.toNat
      else if reg = 5 then s.method.toNat
      else 0 := by
  unfold readRegister
  split
  · exact toNat_statusWord s
  · exact BitVec.toNat_setWidth_of_le (by decide)
  · rfl
  · rfl
  · exact BitVec.toNat_setWidth_of_le (by decide)
  · rw [if_neg ‹_›, if_neg ‹_›, if_neg ‹_›, if_neg ‹_›, if_neg ‹_›]; rfl

/-- Settles O32: the step returns the register read. -/
theorem registerReadsReturnTheirRegister : Obligations.RegisterReadsReturnTheirRegister :=
  fun s reg _ hhost => ⟨readRegister s reg, step_of_move (by simp) hhost, toNat_readRegister s reg⟩

/-- Bit 0 of a word is its parity. -/
theorem getLsbD_zero_iff (v : Word) : v.getLsbD 0 = true ↔ v.toNat % 2 = 1 := by
  rw [BitVec.getLsbD, Nat.testBit_zero, decide_eq_true_eq]

/-- A write of CTRL starts a command when bit 0 is set and BUSY is clear (R25, R27). -/
theorem writeCtrl_start {v : Word} {s : State} (hv : v.toNat % 2 = 1) (hb : s.busy = false) :
    writeCtrl v s = hostStart s :=
  if_pos (by rw [(getLsbD_zero_iff v).mpr hv, hb]; rfl)

/-- Any other write of CTRL does nothing (R25). -/
theorem writeCtrl_ignored {v : Word} {s : State} (h : v.toNat % 2 = 0 ∨ s.busy = true) :
    writeCtrl v s = s := by
  refine if_neg fun hc => ?_
  rw [Bool.and_eq_true, getLsbD_zero_iff, Bool.not_eq_true'] at hc
  obtain ⟨hv, hb⟩ := hc
  rcases h with h | h
  · omega
  · rw [hb] at h; cases h

/-- Settles O33. -/
theorem startLatchesTheOperands : Obligations.StartLatchesTheOperands := by
  intro s v rest hhost hv hb
  rw [step_of_move (by simp) hhost]
  exact congrArg _ (writeCtrl_start (s := { s with host := rest }) hv hb)

/-- Settles O34. -/
theorem otherControlWritesDoNothing : Obligations.OtherControlWritesDoNothing := by
  intro s v rest hhost h
  rw [step_of_move (by simp) hhost]
  exact congrArg _ (writeCtrl_ignored (s := { s with host := rest }) h)

/-! ### Buffers -/

/-- An access to an address that exists is made (R50). -/
theorem atAddress_of_lt {p : Params} {a : Nat} (h : a < 4 * p.maxPix) (s : State) :
    atAddress p a s = .next s := if_pos h

/-- An access to an address that does not exist faults (R50; log 16). -/
theorem atAddress_of_ge {p : Params} {a : Nat} (h : 4 * p.maxPix ≤ a) (s : State) :
    atAddress p a s = .fault .addressOutsideBuffer := if_neg (not_lt.mpr h)

/-- Settles O35: the buffer afterwards is the one with the cell written. -/
theorem hostWritesOneByte : Obligations.HostWritesOneByte := by
  intro s a v rest ha
  refine ⟨fun hhost => ⟨writeCell s.inBuf a v, ?_, readCell_writeCell_same _ _ _, fun b hb =>
      readCell_writeCell_other _ _ hb⟩,
    fun hhost => ⟨writeCell s.outBuf a v, ?_, readCell_writeCell_same _ _ _, fun b hb =>
      readCell_writeCell_other _ _ hb⟩⟩
  · exact (step_of_move (by simp) hhost).trans (atAddress_of_lt ha _)
  · exact (step_of_move (by simp) hhost).trans (atAddress_of_lt ha _)

/-- A read of OUT while the block is not BUSY gives the byte there (R68). -/
theorem readOutByte_of_not_busy {p : Params} {a : Nat} {s : State} (h : s.busy = false) :
    readOutByte p a s = returnData ((outByte p s a).setWidth 32) s :=
  if_neg (by rw [h]; exact Bool.false_ne_true)

/-- A read of OUT while the block is BUSY gives a free byte (R68; log 14). -/
theorem readOutByte_of_busy {p : Params} {a : Nat} {s : State} (h : s.busy = true) :
    readOutByte p a s =
      returnData ((p.busyOut s.fresh a).setWidth 32) { s with fresh := s.fresh + 1 } :=
  if_pos h

/-- Settles O36. -/
theorem hostReadsOneByte : Obligations.HostReadsOneByte := by
  intro s a rest ha
  refine ⟨fun hhost => ?_, fun hhost hb => ?_, fun hhost hb => ⟨chip.busyOut s.fresh a, ?_⟩⟩ <;>
    refine ((step_of_move (by simp) hhost).trans (atAddress_of_lt ha _)).trans (congrArg _ ?_)
  · rfl
  · exact readOutByte_of_not_busy (s := { s with host := rest }) hb
  · exact readOutByte_of_busy (s := { s with host := rest }) hb

/-- Settles O37: each of the four accesses goes through the test of the address. -/
theorem addressOutsideTheBuffersFaults : Obligations.AddressOutsideTheBuffersFaults := by
  intro s a v rest ha hhost
  rcases hhost with hhost | hhost | hhost | hhost <;>
    exact (step_of_move (by simp) hhost).trans (atAddress_of_ge ha _)

/-! ### Reset and idleness -/

/-- Settles O28: the flags are clear, the sequencer is in IDLE, and no cell is listed. -/
theorem resetSatisfiesTheInvariant : Obligations.ResetSatisfiesTheInvariant := by
  refine ⟨⟨by decide, by decide, by decide, by decide⟩, by decide, by decide, rfl, ?_⟩
  simp [CellsOk, CellsBelow, State.reset]

/-- A block whose registers and flags are 0 reads 0 everywhere (R42). -/
theorem readRegister_eq_zero {s : State} (hw : s.width = 0) (hn : s.nbytes = 0)
    (hm : s.method = 0) (hb : s.busy = false) (hd : s.done = false) (he : s.err = false)
    (hc : s.errcode = 0) (reg : Nat) : readRegister s reg = 0 := by
  refine BitVec.eq_of_toNat_eq ?_
  rw [toNat_readRegister, hw, hn, hm, hb, hd, he, hc]
  split_ifs <;> rfl

/-- Settles O38: the reset input, like the reset state, has every register 0. -/
theorem resetInputClearsTheRegisters : Obligations.ResetInputClearsTheRegisters := by
  refine ⟨fun s rest hhost => ⟨_, step_of_move (by simp) hhost, rfl, rfl, ?_⟩, rfl, ?_⟩ <;>
    exact readRegister_eq_zero rfl rfl rfl rfl rfl rfl rfl

/-- Settles O40: in IDLE there is no command to resume. -/
theorem idleBlockDoesNothing : Obligations.IdleBlockDoesNothing := by
  intro s hphase hhost
  rw [step_of_no_move hhost, blockRun_of_ne_check (by rw [hphase]; decide), resume, hphase]

end Sys2Proof.Machine

/-! ## Rounding (spec/40_color_converter.md R96, R99) -/

namespace Sys2Proof.Machine

/-! ### The binary logarithm -/

theorem absRat_eq_abs (x : Rat) : absRat x = |x| := by
  unfold absRat
  split
  · exact (abs_of_neg ‹_›).symm
  · exact (abs_of_nonneg (not_lt.mp ‹_›)).symm

/-- Two to the difference of the logarithms of numerator and denominator is within a factor of two of
the quotient. -/
theorem pow2_log2_sub_bounds {x : Rat} (hx : 0 < x) :
    (2 : Rat) ^ ((Nat.log2 x.num.natAbs : Int) - (Nat.log2 x.den : Int) - 1) ≤ x ∧
      x < (2 : Rat) ^ ((Nat.log2 x.num.natAbs : Int) - (Nat.log2 x.den : Int) + 1) := by
  have hnum : 0 < x.num := Rat.num_pos.mpr hx
  obtain ⟨n, hn⟩ : ∃ n : Nat, x.num = n := Int.eq_ofNat_of_zero_le hnum.le
  have hxe : x = (n : Rat) / (x.den : Rat) := by
    conv_lhs => rw [← Rat.num_div_den x, hn]
    rw [Int.cast_natCast]
  have hn0 : n ≠ 0 := by omega
  have hd0 : (0 : Rat) < x.den := by exact_mod_cast x.den_pos
  have hnabs : x.num.natAbs = n := by omega
  rw [hnabs]
  have n1 : (2 : Rat) ^ n.log2 ≤ n := by exact_mod_cast Nat.log2_self_le hn0
  have n2 : (n : Rat) < 2 ^ (n.log2 + 1) := by exact_mod_cast Nat.lt_log2_self
  have d1 : (2 : Rat) ^ x.den.log2 ≤ x.den := by exact_mod_cast Nat.log2_self_le x.den_nz
  have d2 : (x.den : Rat) < 2 ^ (x.den.log2 + 1) := by exact_mod_cast Nat.lt_log2_self
  have two : (2 : Rat) ≠ 0 := two_ne_zero
  constructor
  · calc (2 : Rat) ^ ((n.log2 : Int) - (x.den.log2 : Int) - 1)
        = 2 ^ n.log2 / 2 ^ (x.den.log2 + 1) := by
          rw [sub_sub, zpow_sub₀ two, zpow_natCast]
          norm_cast
      _ ≤ n / x.den := div_le_div₀ (by positivity) n1 hd0 d2.le
      _ = x := hxe.symm
  · calc x = n / x.den := hxe
      _ < 2 ^ (n.log2 + 1) / 2 ^ x.den.log2 :=
          div_lt_div₀ n2 d1 (by positivity) (by positivity)
      _ = 2 ^ ((n.log2 : Int) - (x.den.log2 : Int) + 1) := by
          rw [sub_add_eq_add_sub, zpow_sub₀ two, zpow_natCast]
          norm_cast

/-- `ilog2` is the integer part of the binary logarithm. -/
theorem ilog2_spec {x : Rat} (hx : 0 < x) : (2 : Rat) ^ ilog2 x ≤ x ∧ x < 2 ^ (ilog2 x + 1) := by
  obtain ⟨hlo, hhi⟩ := pow2_log2_sub_bounds hx
  simp only [ilog2, pow2_eq_zpow]
  split
  · exact ⟨‹_›, hhi⟩
  · exact ⟨hlo, by rw [sub_add_cancel]; exact not_le.mp ‹_›⟩

/-- A number below a power of two has a smaller logarithm. -/
theorem ilog2_lt_of_lt {x : Rat} (hx : 0 < x) {e : Int} (h : x < 2 ^ e) : ilog2 x < e :=
  (zpow_lt_zpow_iff_right₀ one_lt_two).mp ((ilog2_spec hx).1.trans_lt h)

/-! ### Rounding to an integer -/

theorem roundEven_intCast (k : Int) : roundEven (k : Rat) = k := by
  have hfloor : Rat.floor (k : Rat) = k := Rat.floor_intCast k
  simp [roundEven, hfloor]

/-- Rounding to an integer moves by at most one half. -/
theorem abs_sub_roundEven_le (q : Rat) : |q - roundEven q| ≤ 1 / 2 := by
  have h1 : (q.floor : Rat) ≤ q := Rat.floor_le q
  have h2 : q < q.floor + 1 := by exact_mod_cast Rat.lt_floor_add_one q
  rw [abs_le]
  unfold roundEven
  simp only
  split_ifs <;> push_cast <;> constructor <;> linarith

/-- No integer is closer than the rounded one. -/
theorem abs_sub_roundEven_le_abs_sub (q : Rat) (k : Int) : |q - roundEven q| ≤ |q - k| := by
  by_cases hk : k = roundEven q
  · rw [hk]
  · have hne : (1 : Rat) ≤ |(k : Rat) - roundEven q| := by
      exact_mod_cast Int.one_le_abs (sub_ne_zero.mpr hk)
    have htri := abs_sub_le (k : Rat) q (roundEven q)
    rw [abs_sub_comm (k : Rat) q] at htri
    linarith [abs_sub_roundEven_le q]

/-- Rounding to an integer keeps integer bounds on the size. -/
theorem abs_roundEven_le {q : Rat} {b : Int} (h : |q| ≤ b) : |roundEven q| ≤ b := by
  obtain ⟨hl, hu⟩ := abs_le.mp h
  obtain ⟨rl, ru⟩ := abs_le.mp (abs_sub_roundEven_le q)
  refine abs_le.mpr ⟨?_, ?_⟩
  · have : ((-b : Int) : Rat) < (roundEven q + 1 : Int) := by push_cast; linarith
    have := Int.cast_lt.mp this
    omega
  · have : ((roundEven q : Int) : Rat) < (b + 1 : Int) := by push_cast; linarith
    have := Int.cast_lt.mp this
    omega

/-! ### The values of a format -/

theorem one_le_precOf (f : Fmt) : 1 ≤ precOf f := by cases f <;> decide

/-- `2 ^ p` for the precision `p` of the format: significands are at most this. -/
def sigBound (f : Fmt) : Int := 2 ^ (precOf f).toNat

theorem sigBound_cast (f : Fmt) : ((sigBound f : Int) : Rat) = 2 ^ precOf f := by
  have h : ((precOf f).toNat : Int) = precOf f := Int.toNat_of_nonneg (by linarith [one_le_precOf f])
  rw [sigBound, ← h]
  push_cast
  exact (zpow_natCast 2 _).symm

/-- In units of its last place a number is below `2 ^ p`. -/
theorem abs_div_ulp_le (f : Fmt) {x : Rat} (hx : x ≠ 0) :
    |x / pow2 (ulpExp f x)| ≤ sigBound f := by
  have hpos : 0 < |x| := abs_pos.mpr hx
  have hexp : ilog2 |x| + 1 ≤ precOf f + ulpExp f x := by
    have : ilog2 |x| - (precOf f - 1) ≤ ulpExp f x := by
      rw [ulpExp, absRat_eq_abs]; exact le_max_left _ _
    linarith
  rw [abs_div, abs_of_pos (pow2_pos _), div_le_iff₀ (pow2_pos _), sigBound_cast, pow2_eq_zpow,
    ← zpow_add₀ two_ne_zero]
  exact (ilog2_spec hpos).2.le.trans (zpow_le_zpow_right₀ one_le_two hexp)

/-- A number of the form `k * 2 ^ e` with a significand below `2 ^ p` is a value of the format:
its last place is not above `e`. -/
theorem isFmt_of_lt {f : Fmt} {k e : Int} (hk : |k| < sigBound f) (he : minExpOf f ≤ e) :
    IsFmt f ((k : Rat) * 2 ^ e) := by
  by_cases hx : (k : Rat) * 2 ^ e = 0
  · rw [hx]; simp [IsFmt, rnd]
  · have hlt : |(k : Rat) * 2 ^ e| < 2 ^ (precOf f + e) := by
      have h2 : (0 : Rat) < 2 ^ e := by positivity
      rw [abs_mul, abs_of_pos h2, zpow_add₀ two_ne_zero, ← sigBound_cast]
      exact mul_lt_mul_of_pos_right (by exact_mod_cast hk) h2
    have hulp : ulpExp f ((k : Rat) * 2 ^ e) ≤ e := by
      have := ilog2_lt_of_lt (abs_pos.mpr hx) hlt
      rw [ulpExp, absRat_eq_abs]
      exact max_le (by omega) he
    obtain ⟨d, hd⟩ := Int.le.dest hulp
    have hint : (k : Rat) * 2 ^ e / pow2 (ulpExp f ((k : Rat) * 2 ^ e)) = ((k * 2 ^ d : Int) : Rat) := by
      rw [div_eq_iff (pow2_pos _).ne', pow2_eq_zpow]
      conv_lhs => rw [← hd, zpow_add₀ two_ne_zero, zpow_natCast]
      push_cast
      ring
    rw [IsFmt, rnd, if_neg hx, hint, roundEven_intCast, ← hint, div_mul_cancel₀ _ (pow2_pos _).ne']

/-- The bound `2 ^ p` itself is admitted: it is the significand 1 with a higher exponent. -/
theorem isFmt_of_le {f : Fmt} {k e : Int} (hk : |k| ≤ sigBound f) (he : minExpOf f ≤ e) :
    IsFmt f ((k : Rat) * 2 ^ e) := by
  rcases hk.lt_or_eq with hk | hk
  · exact isFmt_of_lt hk he
  · have hone : |(1 : Int)| < sigBound f := by cases f <;> decide
    have hmone : |(-1 : Int)| < sigBound f := by cases f <;> decide
    have hp := one_le_precOf f
    have key : ∀ s : Int, |s| < sigBound f → k = s * sigBound f → IsFmt f ((k : Rat) * 2 ^ e) :=
      fun s hs hks => by
        have : (k : Rat) * 2 ^ e = (s : Rat) * 2 ^ (precOf f + e) := by
          rw [hks, Int.cast_mul, sigBound_cast, zpow_add₀ two_ne_zero, mul_assoc]
        rw [this]
        exact isFmt_of_lt hs (by omega)
    rcases abs_choice k with h | h
    · exact key 1 hone (by omega)
    · exact key (-1) hmone (by omega)

/-- A rounded number is a multiple of the unit in the last place, with an admitted significand. -/
theorem rnd_eq_mul (f : Fmt) {x : Rat} (hx : x ≠ 0) :
    rnd f x = (roundEven (x / pow2 (ulpExp f x)) : Rat) * 2 ^ ulpExp f x ∧
      |roundEven (x / pow2 (ulpExp f x))| ≤ sigBound f := by
  rw [rnd, if_neg hx, ← pow2_eq_zpow]
  exact ⟨rfl, abs_roundEven_le (abs_div_ulp_le f hx)⟩

theorem isFmt_zero (f : Fmt) : IsFmt f 0 := if_pos rfl

/-- Rounding gives a value of the format (R96). -/
theorem isFmt_rnd (f : Fmt) (x : Rat) : IsFmt f (rnd f x) := by
  by_cases hx : x = 0
  · rw [hx, isFmt_zero]; exact isFmt_zero f
  · obtain ⟨he, hk⟩ := rnd_eq_mul f hx
    rw [he]
    exact isFmt_of_le hk (ulpExp_ge f x)

/-- The values of the format are the multiples `k * 2 ^ e` with a significand of at most `2 ^ p`. -/
theorem isFmt_iff {f : Fmt} {u : Rat} :
    IsFmt f u ↔ ∃ k e : Int, u = (k : Rat) * 2 ^ e ∧ |k| ≤ sigBound f ∧ minExpOf f ≤ e := by
  refine ⟨fun h => ?_, fun ⟨k, e, hu, hk, he⟩ => hu ▸ isFmt_of_le hk he⟩
  by_cases hu : u = 0
  · exact ⟨0, minExpOf f, by simp [hu], by cases f <;> decide, le_rfl⟩
  · obtain ⟨he, hk⟩ := rnd_eq_mul f hu
    exact ⟨_, _, h.symm.trans he, hk, ulpExp_ge f u⟩

/-! ### Rounding is to nearest -/

/-- No multiple of the unit in the last place of `x` is closer to `x` than `rnd f x`. -/
theorem abs_sub_rnd_le_of_multiple {f : Fmt} {x : Rat} (hx : x ≠ 0) (k : Int) :
    |x - rnd f x| ≤ |x - (k : Rat) * 2 ^ ulpExp f x| := by
  have hpos : (0 : Rat) < 2 ^ ulpExp f x := by positivity
  have hscale : ∀ m : Int, |x - (m : Rat) * 2 ^ ulpExp f x| =
      |x / 2 ^ ulpExp f x - m| * 2 ^ ulpExp f x := fun m => by
    rw [← abs_of_pos hpos, ← abs_mul, sub_mul, abs_of_pos hpos, div_mul_cancel₀ _ hpos.ne']
  rw [(rnd_eq_mul f hx).1, hscale, hscale, pow2_eq_zpow]
  exact mul_le_mul_of_nonneg_right (abs_sub_roundEven_le_abs_sub _ k) hpos.le

/-- A number at least as large as `b` and of the same sign is no closer to anything smaller. -/
theorem abs_sub_le_abs_sub_of_between {x b u : Rat} (hbx : b ≤ |x|) (hu : |u| ≤ b) :
    |x - (if 0 ≤ x then b else -b)| ≤ |x - u| := by
  obtain ⟨hl, hr⟩ := abs_le.mp hu
  split
  · next h =>
    rw [abs_of_nonneg h] at hbx
    rw [abs_of_nonneg (by linarith)]
    exact (by linarith : x - b ≤ x - u).trans (le_abs_self _)
  · next h =>
    rw [abs_of_neg (not_le.mp h)] at hbx
    rw [abs_of_nonpos (by linarith)]
    exact (by linarith : -(x - -b) ≤ -(x - u)).trans (neg_le_abs _)

/-- No value of the format is closer to the exact number than the rounded one: a value that is not a
multiple of the last place of `x` lies below the power of two below `x` (R17, R96). -/
theorem abs_sub_rnd_le {f : Fmt} (x : Rat) {u : Rat} (hu : IsFmt f u) :
    |x - rnd f x| ≤ |x - u| := by
  by_cases hx : x = 0
  · rw [hx, isFmt_zero]; simp
  obtain ⟨k, e, rfl, hk, he⟩ := isFmt_iff.mp hu
  have two : (2 : Rat) ≠ 0 := two_ne_zero
  rcases le_or_gt (ulpExp f x) e with hle | hlt
  · obtain ⟨d, hd⟩ := Int.le.dest hle
    have : (k : Rat) * 2 ^ e = ((k * 2 ^ d : Int) : Rat) * 2 ^ ulpExp f x := by
      rw [← hd, zpow_add₀ two, zpow_natCast]; push_cast; ring
    rw [this]
    exact abs_sub_rnd_le_of_multiple hx _
  · have hulp : ulpExp f x = ilog2 |x| - (precOf f - 1) := by
      have h := max_choice (ilog2 (absRat x) - (precOf f - 1)) (minExpOf f)
      rw [← absRat_eq_abs]
      exact h.resolve_right fun h => by rw [ulpExp] at hlt; omega
    obtain ⟨d, hd⟩ := Int.le.dest (show (0 : Int) ≤ precOf f - 1 by linarith [one_le_precOf f])
    have hpow : (2 : Rat) ^ ilog2 |x| = ((2 ^ d : Int) : Rat) * 2 ^ ulpExp f x := by
      rw [show ilog2 |x| = (d : Int) + ulpExp f x by omega, zpow_add₀ two, zpow_natCast]
      push_cast; rfl
    have hbound : |(k : Rat) * 2 ^ e| ≤ 2 ^ ilog2 |x| := by
      rw [abs_mul, abs_of_pos (by positivity : (0 : Rat) < 2 ^ e)]
      calc |(k : Rat)| * 2 ^ e ≤ 2 ^ precOf f * 2 ^ e := by
            rw [← sigBound_cast]
            exact mul_le_mul_of_nonneg_right (by exact_mod_cast hk) (by positivity)
        _ = 2 ^ (precOf f + e) := (zpow_add₀ two _ _).symm
        _ ≤ 2 ^ ilog2 |x| := zpow_le_zpow_right₀ one_le_two (by omega)
    refine le_trans ?_ (abs_sub_le_abs_sub_of_between
      (ilog2_spec (abs_pos.mpr hx)).1 hbound)
    rw [hpow]
    split
    · exact abs_sub_rnd_le_of_multiple hx _
    · have hneg := abs_sub_rnd_le_of_multiple (f := f) hx (-(2 ^ d : Int))
      rwa [Int.cast_neg, neg_mul] at hneg

/-- Rounding is monotone, because it is to nearest: were the images of `x < y` in the wrong order,
their midpoint would be at most `x` and at least `y`. -/
theorem rnd_mono (f : Fmt) : Monotone (rnd f) := by
  intro x y hxy
  by_contra hlt
  have hlt := not_le.mp hlt
  have hx := abs_sub_rnd_le x (isFmt_rnd f y)
  have hy := abs_sub_rnd_le y (isFmt_rnd f x)
  have hne : x ≠ y := fun h => by rw [h] at hlt; exact lt_irrefl _ hlt
  rw [← sq_le_sq] at hx hy
  have hgap : 0 < rnd f x - rnd f y := by linarith
  have hgap' : 0 < y - x := sub_pos.mpr (lt_of_le_of_ne hxy hne)
  nlinarith [mul_pos hgap hgap']

/-- Settles O52. -/
theorem roundingIsToNearest : Obligations.RoundingIsToNearest := fun f x =>
  ⟨isFmt_rnd f x, fun _ hu => abs_sub_rnd_le x hu, fun _ hxy => rnd_mono f hxy⟩

/-! ### Consequences for the operations -/

theorem rnd_nonneg {f : Fmt} {x : Rat} (h : 0 ≤ x) : 0 ≤ rnd f x := by
  have := rnd_mono f h
  rwa [isFmt_zero] at this

/-- A number at most a value of the format is rounded to at most that value. -/
theorem rnd_le_of_le {f : Fmt} {x u : Rat} (hu : IsFmt f u) (h : x ≤ u) : rnd f x ≤ u :=
  (rnd_mono f h).trans_eq hu

/-- A natural number below `2 ^ 24`, over a power of four of at most 1024, is a value of both formats. -/
theorem isFmt_natCast_div {f : Fmt} {k n : Nat} (hk : k < 2 ^ 24) (hn : n ≤ 5) :
    IsFmt f ((k : Rat) / 4 ^ n) := by
  refine isFmt_iff.mpr ⟨k, -(2 * n : Nat), ?_, ?_, ?_⟩
  · rw [zpow_neg, zpow_natCast, pow_mul, div_eq_mul_inv]; norm_num
  · have hsig : 2 ^ 24 ≤ sigBound f := by cases f <;> decide
    rw [abs_of_nonneg (by positivity)]
    omega
  · cases f <;> simp only [minExpOf] <;> omega

/-- Settles O46: the quotient is a value of the format already. -/
theorem normalisedThresholdsAreExact : Obligations.NormalisedThresholdsAreExact := by
  intro f n b hn _
  have hb := b.isLt
  rw [divF, u8ToF, divisorOf]
  push_cast
  exact isFmt_natCast_div (by omega) (by omega)

theorem isFmt_one (f : Fmt) : IsFmt f 1 := by
  have := isFmt_natCast_div (f := f) (k := 1) (n := 0) (by norm_num) (by norm_num)
  simpa using this

theorem k0_5_eq (f : Fmt) : k0_5 f = 1 / 2 := by cases f <;> decide +kernel

end Sys2Proof.Machine

/-! ## The Bayer matrices at every order (spec/41_bayer_matrix.md) -/

namespace Sys2Proof.Machine

/-! ### One level of the recursion -/

/-- The recursion of R127, with the side of the smaller matrix written as a power of two. -/
theorem bayerEntry_succ (n r c : Nat) :
    bayerEntry (n + 1) r c =
      4 * bayerEntry n (r % 2 ^ (n + 1)) (c % 2 ^ (n + 1)) +
        cornerOffset (r / 2 ^ (n + 1)) (c / 2 ^ (n + 1)) := rfl

theorem cornerOffset_lt (a b : Nat) : cornerOffset a b < 4 := by
  unfold cornerOffset; split_ifs <;> omega

/-- The base pattern in terms of two bits (R129). -/
theorem cornerOffset_eq_closedOffset {a b : Nat} (ha : a < 2) (hb : b < 2) :
    cornerOffset a b = closedOffset a b := by
  interval_cases a <;> interval_cases b <;> rfl

/-- The four corners are distinct. -/
theorem cornerOffset_inj {a b a' b' : Nat} (ha : a < 2) (hb : b < 2) (ha' : a' < 2) (hb' : b' < 2)
    (h : cornerOffset a b = cornerOffset a' b') : a = a' ∧ b = b' := by
  unfold cornerOffset at h
  split_ifs at h <;> omega

/-- The quadrant of an index below twice the side is 0 or 1. -/
theorem div_two_pow_lt_two {n r : Nat} (h : r < 2 ^ (n + 1 + 1)) : r / 2 ^ (n + 1) < 2 :=
  Nat.div_lt_of_lt_mul (by rwa [← pow_succ])

theorem mod_two_pow_lt (n r : Nat) : r % 2 ^ n < 2 ^ n := Nat.mod_lt _ (by positivity)

/-! ### The closed form -/

/-- The low bits of an index survive the reduction to the smaller matrix. -/
theorem bitOf_mod {j n : Nat} (h : j ≤ n) (v : Nat) : bitOf j (v % 2 ^ (n + 1)) = bitOf j v := by
  unfold bitOf
  rw [show n + 1 = j + (n - j + 1) by omega, pow_add, Nat.mod_mul_right_div_self]
  exact Nat.mod_mod_of_dvd _ (dvd_pow_self 2 (by omega))

/-- The top bit is the quadrant. -/
theorem bitOf_top {n r : Nat} (h : r < 2 ^ (n + 1 + 1)) : bitOf (n + 1) r = r / 2 ^ (n + 1) :=
  Nat.mod_eq_of_lt (div_two_pow_lt_two h)

/-- The closed form looks at the low bits only. -/
theorem bayerClosed_mod (n r c : Nat) :
    bayerClosed n (r % 2 ^ (n + 1)) (c % 2 ^ (n + 1)) = bayerClosed n r c := by
  unfold bayerClosed
  refine congrArg List.sum (List.map_congr_left fun j hj => ?_)
  have hj := List.mem_range.mp hj
  rw [bitOf_mod (by omega), bitOf_mod (by omega)]

/-- One level of the closed form. -/
theorem bayerClosed_succ (n r c : Nat) :
    bayerClosed (n + 1) r c =
      4 * bayerClosed n r c + closedOffset (bitOf (n + 1) r) (bitOf (n + 1) c) := by
  unfold bayerClosed
  rw [List.range_succ, List.map_append, List.sum_append, ← List.sum_map_mul_left]
  congr 1
  · refine congrArg List.sum (List.map_congr_left fun j hj => ?_)
    have hj := List.mem_range.mp hj
    rw [show n + 1 - j = (n - j) + 1 by omega, pow_succ]
    ring
  · simp

/-- Settles O42, by induction on the order: each level of the recursion is one more term of the
sum. -/
theorem matrixRecursionHasClosedForm : Obligations.MatrixRecursionHasClosedForm := by
  intro n
  induction n with
  | zero =>
    intro r c hr hc
    rw [bayerEntry_zero, cornerOffset_eq_closedOffset (by omega) (by omega)]
    have hbit : ∀ v, v < 2 → bitOf 0 v = v := fun v hv => by
      rw [bitOf, pow_zero, Nat.div_one, Nat.mod_eq_of_lt hv]
    simp [bayerClosed, hbit r hr, hbit c hc]
  | succ n ih =>
    intro r c hr hc
    rw [bayerEntry_succ, ih _ _ (mod_two_pow_lt _ _) (mod_two_pow_lt _ _), bayerClosed_mod,
      bayerClosed_succ, bitOf_top hr, bitOf_top hc,
      cornerOffset_eq_closedOffset (div_two_pow_lt_two hr) (div_two_pow_lt_two hc)]

/-! ### A permutation -/

theorem bayerEntry_lt (n r c : Nat) : bayerEntry n r c < 4 ^ (n + 1) := by
  induction n generalizing r c with
  | zero => exact cornerOffset_lt r c
  | succ n ih =>
    have h1 := ih (r % 2 ^ (n + 1)) (c % 2 ^ (n + 1))
    have h2 := cornerOffset_lt (r / 2 ^ (n + 1)) (c / 2 ^ (n + 1))
    rw [bayerEntry_succ, pow_succ 4]
    omega

/-- The entries are distinct: an entry gives its quadrant modulo 4 and the smaller matrix's entry by
division. -/
theorem bayerEntry_inj {n r c r' c' : Nat} (hr : r < 2 ^ (n + 1)) (hc : c < 2 ^ (n + 1))
    (hr' : r' < 2 ^ (n + 1)) (hc' : c' < 2 ^ (n + 1)) (h : bayerEntry n r c = bayerEntry n r' c') :
    r = r' ∧ c = c' := by
  induction n generalizing r c r' c' with
  | zero => exact cornerOffset_inj hr hc hr' hc' h
  | succ n ih =>
    have o := cornerOffset_lt (r / 2 ^ (n + 1)) (c / 2 ^ (n + 1))
    have o' := cornerOffset_lt (r' / 2 ^ (n + 1)) (c' / 2 ^ (n + 1))
    rw [bayerEntry_succ, bayerEntry_succ] at h
    obtain ⟨hrm, hcm⟩ := ih (mod_two_pow_lt _ r) (mod_two_pow_lt _ c) (mod_two_pow_lt _ r')
      (mod_two_pow_lt _ c') (by omega)
    obtain ⟨hrd, hcd⟩ := cornerOffset_inj (div_two_pow_lt_two hr) (div_two_pow_lt_two hc)
      (div_two_pow_lt_two hr') (div_two_pow_lt_two hc') (by omega)
    rw [← Nat.div_add_mod r (2 ^ (n + 1)), ← Nat.div_add_mod c (2 ^ (n + 1)), hrm, hcm, hrd, hcd]
    exact ⟨Nat.div_add_mod _ _, Nat.div_add_mod _ _⟩

/-- Settles O43. -/
theorem matrixIsAPermutation : Obligations.MatrixIsAPermutation := fun n r c hr hc =>
  ⟨bayerEntry_lt n r c, fun _ _ hr' hc' h => bayerEntry_inj hr hc hr' hc' h⟩

/-- Settles O45: the tables, computed. -/
theorem matricesAreTheTables : Obligations.MatricesAreTheTables := by
  unfold Obligations.MatricesAreTheTables
  decide +kernel

/-! ### BUILD -/

/-- A flat index splits into row and column. -/
theorem rowMajor_div_mod {m r c : Nat} (hc : c < m) : (r * m + c) / m = r ∧ (r * m + c) % m = c := by
  have hm : 0 < m := by omega
  rw [Nat.add_comm, Nat.add_mul_div_right _ _ hm, Nat.add_mul_mod_self_right, Nat.div_eq_of_lt hc,
    Nat.mod_eq_of_lt hc, Nat.zero_add]
  exact ⟨rfl, rfl⟩

/-- A flat index is in range when row and column are. -/
theorem rowMajor_lt {m r c : Nat} (hr : r < m) (hc : c < m) : r * m + c < m * m :=
  calc r * m + c < r * m + m := by omega
    _ = (r + 1) * m := by ring
    _ ≤ m * m := Nat.mul_le_mul_right m hr

/-- The entries of the orders that are built fit 8 bits (R130, R36). -/
theorem toNat_ofNat_bayerEntry {n : Nat} (hn : n ≤ 3) (r c : Nat) :
    (BitVec.ofNat 8 (bayerEntry n r c)).toNat = bayerEntry n r c := by
  have hpow : 4 ^ (n + 1) ≤ 4 ^ 4 := Nat.pow_le_pow_right (by norm_num) (by omega)
  rw [BitVec.toNat_ofNat]
  exact Nat.mod_eq_of_lt ((bayerEntry_lt n r c).trans_le hpow)

/-- A BUILD phase that starts at index 0. -/
theorem buildPhase_from_zero (n : Nat) {s : State} (h : s.idx = 0) :
    buildPhase n s = forRange (buildEntry n) (sideOf n * sideOf n) 0 s := by
  simp [buildPhase, h]

/-- Settles O44: BUILD is a loop over the flat indices, each of which is one row and one column. -/
theorem buildLeavesTheMatrix : Obligations.BuildLeavesTheMatrix := by
  intro n s hn hidx
  obtain ⟨m, e, hm⟩ := buildLoop_spec n (sideOf n * sideOf n) 0 s
  refine ⟨m, (buildPhase_from_zero n hidx).trans e, fun r c hr hc => ?_, fun k hk => ?_⟩
  · obtain ⟨hdiv, hmod⟩ := rowMajor_div_mod (r := r) hc
    have hlt : r * 2 ^ (n + 1) + c < 0 + sideOf n * sideOf n := by
      rw [Nat.zero_add]; exact rowMajor_lt hr hc
    refine ⟨_, (hm _).trans (if_pos ⟨Nat.zero_le _, hlt⟩), ?_⟩
    rw [toNat_ofNat_bayerEntry hn, sideOf, hdiv, hmod]
  · exact (hm k).trans (if_neg fun h => absurd h.2 (by rw [Nat.zero_add]; exact not_lt.mpr hk))

/-! ### How many thresholds lie below a luminance (spec/42_dither_pointwise.md R162) -/

/-- The positions of the matrix of order `n`. -/
def matrixGrid (n : Nat) : Finset (Nat × Nat) :=
  Finset.range (2 ^ (n + 1)) ×ˢ Finset.range (2 ^ (n + 1))

theorem mem_matrixGrid {n : Nat} {rc : Nat × Nat} :
    rc ∈ matrixGrid n ↔ rc.1 < 2 ^ (n + 1) ∧ rc.2 < 2 ^ (n + 1) := by
  simp [matrixGrid]

theorem bayerEntry_injOn (n : Nat) :
    Set.InjOn (fun rc : Nat × Nat => bayerEntry n rc.1 rc.2) (matrixGrid n) := by
  intro rc h rc' h' he
  obtain ⟨hr, hc⟩ := mem_matrixGrid.mp h
  obtain ⟨hr', hc'⟩ := mem_matrixGrid.mp h'
  exact Prod.ext_iff.mpr (bayerEntry_inj hr hc hr' hc' he)

/-- The entries of the matrix are the numbers below `4 ^ (n + 1)`: they are distinct, below it, and
as many. -/
theorem image_bayerEntry (n : Nat) :
    (matrixGrid n).image (fun rc => bayerEntry n rc.1 rc.2) = Finset.range (4 ^ (n + 1)) := by
  refine Finset.eq_of_subset_of_card_le (fun k hk => ?_) ?_
  · obtain ⟨rc, -, rfl⟩ := Finset.mem_image.mp hk
    exact Finset.mem_range.mpr (bayerEntry_lt _ _ _)
  · rw [Finset.card_image_of_injOn (bayerEntry_injOn n), matrixGrid, Finset.card_product,
      Finset.card_range, Finset.card_range, ← mul_pow]; norm_num

/-- Settles O47: the thresholds below `x` are those with a numerator below `ceil (x * D)`. -/
theorem thresholdsBelowCountIsCeil : Obligations.ThresholdsBelowCountIsCeil := by
  intro n x _ hx1
  have hD : (0 : Rat) < 4 ^ (n + 1) := by positivity
  have hceil : ⌈x * 4 ^ (n + 1)⌉₊ ≤ 4 ^ (n + 1) := by
    refine Nat.ceil_le.mpr ?_
    push_cast
    exact mul_le_of_le_one_left hD.le hx1
  have hbelow : (Finset.range (4 ^ (n + 1))).filter (fun k : Nat => (k : Rat) / 4 ^ (n + 1) < x) =
      Finset.range ⌈x * 4 ^ (n + 1)⌉₊ := by
    ext k
    rw [Finset.mem_filter, Finset.mem_range, Finset.mem_range, div_lt_iff₀ hD, ← Nat.lt_ceil]
    exact ⟨And.right, fun h => ⟨h.trans_le hceil, h⟩⟩
  have hcard := congrArg Finset.card hbelow
  rw [← image_bayerEntry n, Finset.filter_image, Finset.card_range,
    Finset.card_image_of_injOn ((bayerEntry_injOn n).mono (by
      exact_mod_cast Finset.filter_subset _ _))] at hcard
  exact hcard

end Sys2Proof.Machine

/-! ## The error diffusion (spec/43_floyd_steinberg.md) -/

namespace Sys2Proof.Machine

variable {p : Params}

/-! ### Rows and columns of a pixel index -/

/-- A pixel index determines its row and column. -/
theorem rowMajor_inj {w x y x' y' : Nat} (hx : x < w) (hx' : x' < w) :
    y * w + x = y' * w + x' ↔ x = x' ∧ y = y' := by
  refine ⟨fun h => ?_, fun ⟨h1, h2⟩ => by rw [h1, h2]⟩
  obtain ⟨hd, hm⟩ := rowMajor_div_mod (r := y) hx
  obtain ⟨hd', hm'⟩ := rowMajor_div_mod (r := y') hx'
  rw [h] at hd hm
  exact ⟨hm.symm.trans hm', hd.symm.trans hd'⟩

theorem colOf_rowMajor {w x : Nat} (y : Nat) (hx : x < w) : colOf w (y * w + x) = x :=
  (rowMajor_div_mod hx).2

theorem rowOf_rowMajor {w x : Nat} (y : Nat) (hx : x < w) : rowOf w (y * w + x) = y :=
  (rowMajor_div_mod hx).1

/-- A pixel of the image has a row and a column inside it. -/
theorem exists_rowMajor {w h j : Nat} (hj : j < w * h) : ∃ x y, x < w ∧ y < h ∧ j = y * w + x := by
  have hw : 0 < w := Nat.pos_of_mul_pos_right (Nat.zero_lt_of_lt hj)
  refine ⟨j % w, j / w, Nat.mod_lt _ hw, Nat.div_lt_of_lt_mul hj, ?_⟩
  rw [Nat.mul_comm]
  exact (Nat.div_add_mod j w).symm

/-- A row and a column inside the image give a pixel of it. -/
theorem rowMajor_lt_mul {w h x y : Nat} (hx : x < w) (hy : y < h) : y * w + x < w * h :=
  calc y * w + x < y * w + w := by omega
    _ = w * (y + 1) := by ring
    _ ≤ w * h := Nat.mul_le_mul_left w hy

/-- The pixel to the right of `(x, y)`. -/
theorem eq_right_iff {w x y x' y' : Nat} (hx' : x' < w) :
    x + 1 < w ∧ y' * w + x' = y * w + x + 1 ↔ x' = x + 1 ∧ y' = y := by
  refine ⟨fun ⟨h, e⟩ => (rowMajor_inj hx' h).mp e, fun ⟨h1, h2⟩ => ?_⟩
  subst h1 h2
  exact ⟨hx', rfl⟩

/-- The pixel below `(x, y)`. -/
theorem eq_below_iff {w x y x' y' : Nat} (hx : x < w) (hx' : x' < w) :
    y' * w + x' = y * w + x + w ↔ x' = x ∧ y' = y + 1 := by
  rw [show y * w + x + w = (y + 1) * w + x by ring]
  exact rowMajor_inj hx' hx

/-- The pixel to the bottom left of `(x, y)`. -/
theorem eq_belowLeft_iff {w x y x' y' : Nat} (hx : x < w) (hx' : x' < w) :
    0 < x ∧ y' * w + x' + 1 = y * w + x + w ↔ x' + 1 = x ∧ y' = y + 1 := by
  have hshift : ∀ k, k + 1 = x → (y' * w + x' + 1 = y * w + x + w ↔ x' = k ∧ y' = y + 1) :=
    fun k hk => by
      rw [← rowMajor_inj hx' (show k < w by omega)]
      have : (y + 1) * w = y * w + w := by ring
      omega
  refine ⟨fun ⟨h, e⟩ => ?_, fun ⟨h, e⟩ => ⟨by omega, (hshift x' h).mpr ⟨rfl, e⟩⟩⟩
  obtain ⟨h1, h2⟩ := (hshift (x - 1) (by omega)).mp e
  exact ⟨by omega, h2⟩

/-- The pixel to the bottom right of `(x, y)`. -/
theorem eq_belowRight_iff {w x y x' y' : Nat} (hx' : x' < w) :
    x + 1 < w ∧ y' * w + x' = y * w + x + w + 1 ↔ x' = x + 1 ∧ y' = y + 1 := by
  rw [show y * w + x + w + 1 = (y + 1) * w + x + 1 by ring]
  exact eq_right_iff hx'

/-! ### Where the four shares go -/

theorem lumAt_of_readCell {s : State} {j : Nat} {v : FmtVal} (h : readCell s.lum j = some v) :
    lumAt p s j = v := by
  rw [lumAt, h, Option.getD_some]

/-- Entries that read the same hold the same. -/
theorem lumAt_congr {s t : State} {j : Nat} (he : t.storeEra = s.storeEra)
    (h : readCell t.lum j = readCell s.lum j) : lumAt p t j = lumAt p s j := by
  rw [lumAt, lumAt, he, h]

/-- Adding to one entry of LUM (R171, R175). -/
theorem readCell_addLumIf (c : Bool) (j : Nat) (v : FmtVal) (s : State) (k : Nat) :
    readCell (addLumIf p c j v s).lum k =
      if c = true ∧ k = j then some (addF p.fmt (lumAt p s k) v) else readCell s.lum k := by
  obtain ⟨l, e, hl⟩ := addLumIf_spec (p := p) c j v s
  rw [e]
  refine (hl k).trans ?_
  by_cases hk : c = true ∧ k = j
  · rw [if_pos hk, if_pos hk, hk.2]
  · rw [if_neg hk, if_neg hk]

/-- An entry that nothing is added to holds what it held. -/
theorem lumAt_addLumIf {c : Bool} {j k : Nat} (v : FmtVal) (s : State) (h : ¬(c = true ∧ k = j)) :
    lumAt p (addLumIf p c j v s) k = lumAt p s k := by
  obtain ⟨l, e, -⟩ := addLumIf_spec (p := p) c j v s
  exact lumAt_congr (by rw [e]) ((readCell_addLumIf c j v s k).trans (if_neg h))

/-- Distributing an error adds to the four targets that exist, which are different entries
(R171, R174, R175). -/
theorem readCell_diffuse (i : Nat) (e : FmtVal) {s : State} (hpos : 0 < s.lat.w.toNat) (j : Nat) :
    readCell (diffuse p i e s).lum j =
      if colOf s.lat.w.toNat i + 1 < s.lat.w.toNat ∧ j = i + 1 then
        some (addF p.fmt (lumAt p s j) (wt p e 7))
      else if rowOf s.lat.w.toNat i + 1 < s.lat.h.toNat ∧
          0 < colOf s.lat.w.toNat i ∧ j + 1 = i + s.lat.w.toNat then
        some (addF p.fmt (lumAt p s j) (wt p e 3))
      else if rowOf s.lat.w.toNat i + 1 < s.lat.h.toNat ∧ j = i + s.lat.w.toNat then
        some (addF p.fmt (lumAt p s j) (wt p e 5))
      else if rowOf s.lat.w.toNat i + 1 < s.lat.h.toNat ∧
          colOf s.lat.w.toNat i + 1 < s.lat.w.toNat ∧ j = i + s.lat.w.toNat + 1 then
        some (addF p.fmt (lumAt p s j) (wt p e 1))
      else readCell s.lum j := by
  have hcol : colOf s.lat.w.toNat i < s.lat.w.toNat := Nat.mod_lt _ hpos
  unfold diffuse
  dsimp only
  generalize s.lat.w.toNat = w at hpos hcol
  generalize s.lat.h.toNat = h
  generalize colOf w i = x at hcol
  generalize rowOf w i = y
  simp only [readCell_addLumIf, Bool.and_eq_true, decide_eq_true_eq]
  by_cases right : x + 1 < w ∧ j = i + 1
  · rw [if_neg (by omega), if_neg (by omega), if_neg (by omega), if_pos right, if_pos right]
  have k₁ := lumAt_addLumIf (p := p) (c := decide (x + 1 < w)) (j := i + 1) (wt p e 7) s (k := j)
    (by simpa using right)
  rw [if_neg right, if_neg right]
  by_cases belowLeft : y + 1 < h ∧ 0 < x ∧ j + 1 = i + w
  · rw [if_neg (by omega), if_neg (by omega), if_pos (by omega), if_pos belowLeft, k₁]
  have belowLeft' : ¬((0 < x ∧ y + 1 < h) ∧ j = i + w - 1) := by omega
  have k₂ := lumAt_addLumIf (p := p) (c := decide (0 < x) && decide (y + 1 < h)) (j := i + w - 1)
    (wt p e 3) (addLumIf p (decide (x + 1 < w)) (i + 1) (wt p e 7) s) (k := j)
    (by simpa using belowLeft')
  rw [if_neg belowLeft, if_neg belowLeft']
  by_cases below : y + 1 < h ∧ j = i + w
  · rw [if_neg (by omega), if_pos below, if_pos below, k₂, k₁]
  rw [if_neg below, if_neg below]
  by_cases belowRight : y + 1 < h ∧ x + 1 < w ∧ j = i + w + 1
  · rw [if_pos (by omega), if_pos belowRight, lumAt_addLumIf _ _ (by simpa using below), k₂, k₁]
  · rw [if_neg (by omega), if_neg belowRight]

/-- Which entry of LUM gets which share of the error of pixel `(x, y)`, by row and column. -/
def shareTo (x y x' y' : Nat) : Option Nat :=
  if x' = x + 1 ∧ y' = y then some 7
  else if x' + 1 = x ∧ y' = y + 1 then some 3
  else if x' = x ∧ y' = y + 1 then some 5
  else if x' = x + 1 ∧ y' = y + 1 then some 1
  else none

/-- The entries of the image after the distribution of an error (R171, R174, R175). -/
theorem diffuse_spec (e : FmtVal) {s : State} {x y : Nat} (hx : x < s.lat.w.toNat)
    (hy : y < s.lat.h.toNat) :
    (∀ x' y', x' < s.lat.w.toNat → y' < s.lat.h.toNat →
        readCell (diffuse p (y * s.lat.w.toNat + x) e s).lum (y' * s.lat.w.toNat + x') =
          match shareTo x y x' y' with
          | some k => some (addF p.fmt (lumAt p s (y' * s.lat.w.toNat + x')) (wt p e k))
          | none => readCell s.lum (y' * s.lat.w.toNat + x')) ∧
      ∀ j, s.lat.w.toNat * s.lat.h.toNat ≤ j →
        readCell (diffuse p (y * s.lat.w.toNat + x) e s).lum j = readCell s.lum j := by
  have hread := readCell_diffuse (p := p) (y * s.lat.w.toNat + x) e (s := s) (by omega)
  rw [colOf_rowMajor y hx, rowOf_rowMajor y hx] at hread
  refine ⟨fun x' y' hx' hy' => (hread _).trans ?_, fun j hj => (hread j).trans ?_⟩
  · rw [if_congr (eq_right_iff hx') rfl rfl,
      if_congr ((and_congr_right fun _ => eq_belowLeft_iff hx hx').trans
        (and_iff_right_of_imp fun h => by omega)) rfl rfl,
      if_congr ((and_congr_right fun _ => eq_below_iff hx hx').trans
        (and_iff_right_of_imp fun h => by omega)) rfl rfl,
      if_congr ((and_congr_right fun _ => eq_belowRight_iff hx').trans
        (and_iff_right_of_imp fun h => by omega)) rfl rfl]
    unfold shareTo
    split_ifs <;> rfl
  · have hin : ∀ {x' y'}, x' < s.lat.w.toNat → y' < s.lat.h.toNat →
        y' * s.lat.w.toNat + x' < j := fun h1 h2 => (rowMajor_lt_mul h1 h2).trans_le hj
    have hrow : (y + 1) * s.lat.w.toNat = y * s.lat.w.toNat + s.lat.w.toNat := by ring
    rw [if_neg fun h => ?_, if_neg fun h => ?_, if_neg fun h => ?_, if_neg fun h => ?_]
    · have := hin h.2.1 h.1; omega
    · have := hin hx h.1; omega
    · have := hin (x' := x) hx h.1; omega
    · have := hin h.1 hy; omega

/-- Settles O49. -/
theorem sharesReachExactlyTheNeighbours : Obligations.SharesReachExactlyTheNeighbours := by
  intro s e x y hx hy
  obtain ⟨l, hl⟩ := diffuse_only (p := chip) (y * s.lat.w.toNat + x) e s
  obtain ⟨hin, hout⟩ := diffuse_spec (p := chip) e hx hy
  rw [hl] at hin hout
  refine ⟨l, hl, fun x' y' hx' hy' => (hin x' y' hx' hy').trans ?_, hout⟩
  unfold shareTo
  simp only
  split_ifs <;> rfl

/-- Settles O50: a step thresholds its own pixel and distributes to later ones only. -/
theorem diffusedPixelsAreFinal : Obligations.DiffusedPixelsAreFinal := by
  intro s i k hw hik
  constructor
  · obtain ⟨t, ht⟩ := readCell_kernelPixel_of_le (p := chip) (m := 0b111#3) (by decide) i (s := s) hw
    rw [kernelPixel_floydSteinberg] at ht
    rw [ht i le_rfl, if_pos rfl]
    exact (thr_eq_zero_or_one _ t).imp (congrArg some) (congrArg some)
  · obtain ⟨t, ht⟩ := readCell_kernelPixel_of_le (p := chip) (m := 0b111#3) (by decide) k (s := s) hw
    rw [kernelPixel_floydSteinberg] at ht
    rw [ht i hik.le, if_neg hik.ne]

end Sys2Proof.Machine

/-! ### The recurrence of a pixel's received luminance (R176) -/

namespace Sys2Proof.Machine

variable {p : Params}

/-- A luminance with a share of an error added, if there is one. -/
def addShare (p : Params) (e : FmtVal) (share : Option Nat) (x : FmtVal) : FmtVal :=
  match share with
  | some k => addF p.fmt x (wt p e k)
  | none => x

/-- The share `k` of the error `e`, added if its condition holds. -/
def addShareIf (p : Params) (c : Prop) [Decidable c] (e : FmtVal) (k : Nat) (x : FmtVal) : FmtVal :=
  if c then addF p.fmt x (wt p e k) else x

theorem addShareIf_pos {c : Prop} [Decidable c] (h : c) (e : FmtVal) (k : Nat) (x : FmtVal) :
    addShareIf p c e k x = addF p.fmt x (wt p e k) := if_pos h

theorem addShareIf_neg {c : Prop} [Decidable c] (h : ¬c) (e : FmtVal) (k : Nat) (x : FmtVal) :
    addShareIf p c e k x = x := if_neg h

/-- The error matters only where its share is added. -/
theorem addShareIf_congr {c : Prop} [Decidable c] {e e' : FmtVal} (h : c → e = e') (k : Nat)
    (x : FmtVal) : addShareIf p c e k x = addShareIf p c e' k x :=
  ite_congr rfl (fun hc => by rw [h hc]) fun _ => rfl

/-- The luminance `d` of pixel `j` with the shares of those errors that steps before `n` distribute:
`receivedLum` stopped after `n` steps. -/
def sharesBefore (p : Params) (w n : Nat) (d : FmtVal) (e : Nat → FmtVal) (j : Nat) : FmtVal :=
  let x := colOf w j
  let y := rowOf w j
  addShareIf p (0 < x ∧ j - 1 < n) (e (j - 1)) 7
    (addShareIf p ((x + 1 < w ∧ 0 < y) ∧ j - w + 1 < n) (e (j - w + 1)) 3
      (addShareIf p (0 < y ∧ j - w < n) (e (j - w)) 5
        (addShareIf p ((0 < x ∧ 0 < y) ∧ j - w - 1 < n) (e (j - w - 1)) 1 d)))

/-- Before the first step no pixel has received anything. -/
@[simp] theorem sharesBefore_zero (w : Nat) (d : FmtVal) (e : Nat → FmtVal) (j : Nat) :
    sharesBefore p w 0 d e j = d := by
  simp [sharesBefore, addShareIf]

/-- Only the errors of the steps made matter. -/
theorem sharesBefore_congr {w n : Nat} {d : FmtVal} {e e' : Nat → FmtVal} {j : Nat}
    (h : ∀ k, k < n → e k = e' k) : sharesBefore p w n d e j = sharesBefore p w n d e' j := by
  unfold sharesBefore
  dsimp only
  rw [addShareIf_congr fun hc => h (j - w - 1) hc.2, addShareIf_congr fun hc => h (j - w) hc.2,
    addShareIf_congr fun hc => h (j - w + 1) hc.2, addShareIf_congr fun hc => h (j - 1) hc.2]

/-- A pixel in a row after the first has an index of at least the width, and so on. -/
theorem index_bounds {w j : Nat} (hw : 0 < w) :
    colOf w j ≤ j ∧ (0 < rowOf w j → w + colOf w j ≤ j) ∧ colOf w j < w := by
  have hj : w * rowOf w j + colOf w j = j := Nat.div_add_mod j w
  refine ⟨by omega, fun h => ?_, Nat.mod_lt _ hw⟩
  have := Nat.le_mul_of_pos_right w h
  omega

/-- When step `j` comes, every neighbour that distributes to pixel `j` has been visited. -/
theorem sharesBefore_self {w : Nat} (hw : 0 < w) (d : FmtVal) (e : Nat → FmtVal) (j : Nat) :
    sharesBefore p w j d e j = receivedLum p w d e j := by
  obtain ⟨hx, hy, hc⟩ := index_bounds (j := j) hw
  have c₁ : (0 < colOf w j ∧ 0 < rowOf w j) ∧ j - w - 1 < j ↔ 0 < colOf w j ∧ 0 < rowOf w j := by
    omega
  have c₂ : 0 < rowOf w j ∧ j - w < j ↔ 0 < rowOf w j := by omega
  have c₃ : (colOf w j + 1 < w ∧ 0 < rowOf w j) ∧ j - w + 1 < j ↔
      colOf w j + 1 < w ∧ 0 < rowOf w j := by omega
  have c₄ : 0 < colOf w j ∧ j - 1 < j ↔ 0 < colOf w j := by omega
  simp only [sharesBefore, addShareIf, receivedLum, c₁, c₂, c₃, c₄]

/-- What a pixel receives depends on the errors of earlier pixels only. -/
theorem receivedLum_congr {w : Nat} (hw : 0 < w) {d : FmtVal} {e e' : Nat → FmtVal} {i : Nat}
    (h : ∀ k, k < i → e k = e' k) : receivedLum p w d e i = receivedLum p w d e' i := by
  rw [← sharesBefore_self hw, ← sharesBefore_self hw, sharesBefore_congr h]

/-! #### The neighbours of a pixel, seen from the pixel that receives -/

/-- A pixel in a row after the first, from the pixel above. -/
theorem row_pred {w x y : Nat} (h : 0 < y) : y * w + x = (y - 1) * w + x + w := by
  conv_lhs => rw [show y = y - 1 + 1 by omega]
  ring

section Neighbours

variable {w x y x' y' : Nat} (hx : x < w) (hx' : x' < w)
include hx hx'

theorem sub_one_eq_iff (h : 0 < x') : y' * w + x' - 1 = y * w + x ↔ x' = x + 1 ∧ y' = y := by
  rw [Nat.add_sub_assoc h, rowMajor_inj (by omega) hx]
  omega

theorem sub_width_eq_iff (h : 0 < y') :
    y' * w + x' - w = y * w + x ↔ x' = x ∧ y' = y + 1 := by
  rw [row_pred h, Nat.add_sub_cancel, rowMajor_inj hx' hx]
  omega

omit hx' in
theorem sub_width_add_one_eq_iff (h : x' + 1 < w) (hy : 0 < y') :
    y' * w + x' - w + 1 = y * w + x ↔ x' + 1 = x ∧ y' = y + 1 := by
  rw [row_pred hy, Nat.add_sub_cancel, Nat.add_assoc, rowMajor_inj h hx]
  omega

theorem sub_width_sub_one_eq_iff (h : 0 < x') (hy : 0 < y') :
    y' * w + x' - w - 1 = y * w + x ↔ x' = x + 1 ∧ y' = y + 1 := by
  rw [row_pred hy, Nat.add_sub_cancel, Nat.add_sub_assoc h, rowMajor_inj (by omega) hx]
  omega

theorem visited_left_succ_iff (h : ¬(x' = x + 1 ∧ y' = y)) :
    0 < x' ∧ y' * w + x' - 1 < y * w + x + 1 ↔ 0 < x' ∧ y' * w + x' - 1 < y * w + x :=
  and_congr_right fun h0 =>
    Nat.lt_succ_iff_lt_or_eq.trans (or_iff_left (mt (sub_one_eq_iff hx hx' h0).mp h))

theorem visited_above_succ_iff (h : ¬(x' = x ∧ y' = y + 1)) :
    0 < y' ∧ y' * w + x' - w < y * w + x + 1 ↔ 0 < y' ∧ y' * w + x' - w < y * w + x :=
  and_congr_right fun h0 =>
    Nat.lt_succ_iff_lt_or_eq.trans (or_iff_left (mt (sub_width_eq_iff hx hx' h0).mp h))

omit hx' in
theorem visited_aboveRight_succ_iff (h : ¬(x' + 1 = x ∧ y' = y + 1)) :
    (x' + 1 < w ∧ 0 < y') ∧ y' * w + x' - w + 1 < y * w + x + 1 ↔
      (x' + 1 < w ∧ 0 < y') ∧ y' * w + x' - w + 1 < y * w + x :=
  and_congr_right fun ⟨h1, h2⟩ =>
    Nat.lt_succ_iff_lt_or_eq.trans (or_iff_left (mt (sub_width_add_one_eq_iff hx h1 h2).mp h))

theorem visited_aboveLeft_succ_iff (h : ¬(x' = x + 1 ∧ y' = y + 1)) :
    (0 < x' ∧ 0 < y') ∧ y' * w + x' - w - 1 < y * w + x + 1 ↔
      (0 < x' ∧ 0 < y') ∧ y' * w + x' - w - 1 < y * w + x :=
  and_congr_right fun ⟨h1, h2⟩ =>
    Nat.lt_succ_iff_lt_or_eq.trans (or_iff_left (mt (sub_width_sub_one_eq_iff hx hx' h1 h2).mp h))

/-- Shares go to later pixels only. -/
theorem lt_of_shareTo {k : Nat} (h : shareTo x y x' y' = some k) :
    y * w + x < y' * w + x' := by
  have hrow : y' = y + 1 → y' * w + x' = y * w + x' + w := fun e => by rw [e]; ring
  unfold shareTo at h
  split_ifs at h with right belowLeft below belowRight
  · rw [right.2]; omega
  · rw [hrow belowLeft.2]; omega
  · rw [hrow below.2]; omega
  · rw [hrow belowRight.2]; omega

/-- One more step adds the share that `shareTo` says: the share of the pixel visited, if pixel
`(x', y')` is one of its neighbours. -/
theorem sharesBefore_succ (d : FmtVal) (e : Nat → FmtVal) :
    sharesBefore p w (y * w + x + 1) d e (y' * w + x') =
      addShare p (e (y * w + x)) (shareTo x y x' y')
        (sharesBefore p w (y * w + x) d e (y' * w + x')) := by
  unfold sharesBefore shareTo
  rw [colOf_rowMajor y' hx', rowOf_rowMajor y' hx']
  dsimp only
  by_cases right : x' = x + 1 ∧ y' = y
  · have hn := (sub_one_eq_iff hx hx' (by omega)).mpr right
    simp only [visited_aboveLeft_succ_iff hx hx' (show ¬(x' = x + 1 ∧ y' = y + 1) by omega),
      visited_above_succ_iff hx hx' (show ¬(x' = x ∧ y' = y + 1) by omega),
      visited_aboveRight_succ_iff hx (show ¬(x' + 1 = x ∧ y' = y + 1) by omega)]
    generalize y' * w + x' = j at *
    generalize y * w + x = n at *
    have now : 0 < x' ∧ j - 1 < n + 1 := ⟨by omega, by omega⟩
    have before : ¬(0 < x' ∧ j - 1 < n) := by omega
    rw [if_pos right, addShareIf_pos now, addShareIf_neg before, hn, addShare]
  simp only [visited_left_succ_iff hx hx' right, if_neg right]
  by_cases belowLeft : x' + 1 = x ∧ y' = y + 1
  · have hn := (sub_width_add_one_eq_iff hx (by omega) (by omega)).mpr belowLeft
    have hj : w ≤ y' * w + x' := by rw [row_pred (by omega)]; exact Nat.le_add_left _ _
    simp only [visited_aboveLeft_succ_iff hx hx' (show ¬(x' = x + 1 ∧ y' = y + 1) by omega),
      visited_above_succ_iff hx hx' (show ¬(x' = x ∧ y' = y + 1) by omega)]
    generalize y' * w + x' = j at *
    generalize y * w + x = n at *
    have now : (x' + 1 < w ∧ 0 < y') ∧ j - w + 1 < n + 1 := ⟨by omega, by omega⟩
    have before : ¬((x' + 1 < w ∧ 0 < y') ∧ j - w + 1 < n) := by omega
    have left : ¬(0 < x' ∧ j - 1 < n) := by omega
    rw [if_pos belowLeft, addShareIf_pos now, addShareIf_neg before, addShareIf_neg left,
      addShareIf_neg left, hn, addShare]
  simp only [visited_aboveRight_succ_iff hx belowLeft, if_neg belowLeft]
  by_cases below : x' = x ∧ y' = y + 1
  · have hn := (sub_width_eq_iff hx hx' (by omega)).mpr below
    simp only [visited_aboveLeft_succ_iff hx hx' (show ¬(x' = x + 1 ∧ y' = y + 1) by omega)]
    generalize y' * w + x' = j at *
    generalize y * w + x = n at *
    have now : 0 < y' ∧ j - w < n + 1 := ⟨by omega, by omega⟩
    have before : ¬(0 < y' ∧ j - w < n) := by omega
    have left : ¬(0 < x' ∧ j - 1 < n) := by omega
    have aboveRight : ¬((x' + 1 < w ∧ 0 < y') ∧ j - w + 1 < n) := by omega
    rw [if_pos below, addShareIf_pos now, addShareIf_neg before, addShareIf_neg left,
      addShareIf_neg left, addShareIf_neg aboveRight, addShareIf_neg aboveRight, hn, addShare]
  simp only [visited_above_succ_iff hx hx' below, if_neg below]
  by_cases belowRight : x' = x + 1 ∧ y' = y + 1
  · have hn := (sub_width_sub_one_eq_iff hx hx' (by omega) (by omega)).mpr belowRight
    generalize y' * w + x' = j at *
    generalize y * w + x = n at *
    have now : (0 < x' ∧ 0 < y') ∧ j - w - 1 < n + 1 := ⟨by omega, by omega⟩
    have before : ¬((0 < x' ∧ 0 < y') ∧ j - w - 1 < n) := by omega
    have left : ¬(0 < x' ∧ j - 1 < n) := by omega
    have aboveRight : ¬((x' + 1 < w ∧ 0 < y') ∧ j - w + 1 < n) := by omega
    have above : ¬(0 < y' ∧ j - w < n) := by omega
    rw [if_pos belowRight, addShareIf_pos now, addShareIf_neg before, addShareIf_neg left,
      addShareIf_neg left, addShareIf_neg aboveRight, addShareIf_neg aboveRight,
      addShareIf_neg above, addShareIf_neg above, hn, addShare]
  · simp only [visited_aboveLeft_succ_iff hx hx' belowRight, if_neg belowRight, addShare]

end Neighbours

/-! ### What the error diffusion computes -/

/-- The error of a pixel that holds `old` when it is visited (R171, R173). -/
def diffusionError (p : Params) (old : FmtVal) : FmtVal :=
  subF p.fmt old (thr old (k0_5 p.fmt))

/-- What pixel `i` holds when the error diffusion visits it, from the luminances `d` of DECODE: the
recurrence of R176. -/
def diffusedLum (p : Params) (w : Nat) (d : Nat → FmtVal) (i : Nat) : FmtVal :=
  receivedLum p w (d i)
    (fun k => if _h : k < i then diffusionError p (diffusedLum p w d k) else 0) i
termination_by i

/-- The recurrence of R176. -/
theorem diffusedLum_eq {w : Nat} (hw : 0 < w) (d : Nat → FmtVal) (i : Nat) :
    diffusedLum p w d i =
      receivedLum p w (d i) (fun k => diffusionError p (diffusedLum p w d k)) i := by
  rw [diffusedLum]
  exact receivedLum_congr hw fun k hk => dif_pos hk

/-- Pixel `i` depends on the luminances up to its own. -/
theorem diffusedLum_congr {w : Nat} (hw : 0 < w) {d d' : Nat → FmtVal} {i : Nat}
    (h : ∀ k, k ≤ i → d k = d' k) : diffusedLum p w d i = diffusedLum p w d' i := by
  induction i using Nat.strong_induction_on with
  | _ i ih =>
    rw [diffusedLum_eq hw, diffusedLum_eq hw, h i le_rfl]
    exact receivedLum_congr hw fun k hk => by rw [ih k hk fun j hj => h j (by omega)]

/-! ### The kernel in place computes it (R171, R176) -/

/-- The kernel after its first `n` steps, over an image with the luminances `d`: the pixels visited
are thresholded, the others hold what they have received so far. -/
def DiffusedTo (p : Params) (d : Nat → FmtVal) (s : State) (n : Nat) (t : State) : Prop :=
  t.lat = s.lat ∧ ∀ j, j < s.lat.w.toNat * s.lat.h.toNat → readCell t.lum j =
    some (if j < n then thr (diffusedLum p s.lat.w.toNat d j) (k0_5 p.fmt)
      else sharesBefore p s.lat.w.toNat n (d j)
        (fun k => diffusionError p (diffusedLum p s.lat.w.toNat d k)) j)

/-- One step of the kernel visits one more pixel. -/
theorem DiffusedTo.step {d : Nat → FmtVal} {s t : State} {n : Nat}
    (hn : n < s.lat.w.toNat * s.lat.h.toNat) (h : DiffusedTo p d s n t) :
    DiffusedTo p d s (n + 1) (floydSteinbergPixel p n t) := by
  obtain ⟨hlat, hlum⟩ := h
  obtain ⟨x, y, hx, hy, rfl⟩ := exists_rowMajor hn
  have hw : 0 < s.lat.w.toNat := by omega
  have hold : lumAt p t (y * s.lat.w.toNat + x) =
      diffusedLum p s.lat.w.toNat d (y * s.lat.w.toNat + x) := by
    rw [lumAt_of_readCell (hlum _ hn), if_neg (lt_irrefl _), sharesBefore_self hw,
      ← diffusedLum_eq hw]
  refine ⟨?_, fun j hj => ?_⟩
  · obtain ⟨l, e⟩ := floydSteinbergPixel_only (p := p) (y * s.lat.w.toNat + x) t
    rw [e]; exact hlat
  obtain ⟨x', y', hx', hy', rfl⟩ := exists_rowMajor hj
  rw [floydSteinbergPixel, hold]
  generalize hnew : thr (diffusedLum p s.lat.w.toNat d (y * s.lat.w.toNat + x)) (k0_5 p.fmt) = new
  generalize ht₂ : setLum (y * s.lat.w.toNat + x) new t = t₂
  have hlat₂ : t₂.lat = s.lat := by rw [← ht₂]; exact hlat
  have hlum₂ : ∀ k, readCell t₂.lum k =
      if k = y * s.lat.w.toNat + x then some new else readCell t.lum k := fun k => by
    rw [← ht₂, setLum_lum, readCell_writeCell]
  obtain ⟨hin, -⟩ := diffuse_spec (p := p)
    (subF p.fmt (diffusedLum p s.lat.w.toNat d (y * s.lat.w.toNat + x)) new) (s := t₂)
    (x := x) (y := y) (by rw [hlat₂]; exact hx) (by rw [hlat₂]; exact hy)
  rw [hlat₂] at hin
  rw [hin x' y' hx' hy']
  by_cases hvisited : y' * s.lat.w.toNat + x' < y * s.lat.w.toNat + x + 1
  · have hnone : shareTo x y x' y' = none := by
      cases hk : shareTo x y x' y' with
      | none => rfl
      | some k => have := lt_of_shareTo hx hx' hk; omega
    rw [hnone, if_pos hvisited]
    dsimp only
    rw [hlum₂]
    by_cases hself : y' * s.lat.w.toNat + x' = y * s.lat.w.toNat + x
    · rw [if_pos hself, hself, hnew]
    · rw [if_neg hself, hlum _ hj, if_pos (by omega)]
  · have hbefore := (hlum₂ (y' * s.lat.w.toNat + x')).trans
      ((if_neg (by omega)).trans ((hlum _ hj).trans (by rw [if_neg (by omega)])))
    rw [if_neg hvisited, sharesBefore_succ hx hx', diffusionError, hnew, lumAt_of_readCell hbefore]
    cases shareTo x y x' y' with
    | none => exact hbefore
    | some k => rfl

/-- The whole kernel leaves the thresholded values of the recurrence in LUM (R171, R176). -/
theorem floydSteinbergLoop_lum {d : Nat → FmtVal} {s : State}
    (hlum : ∀ j, j < s.lat.w.toNat * s.lat.h.toNat → readCell s.lum j = some (d j)) (j : Nat)
    (hj : j < s.lat.w.toNat * s.lat.h.toNat) :
    lumAt p (forRange (floydSteinbergPixel p) (s.lat.w.toNat * s.lat.h.toNat) 0 s) j =
      thr (diffusedLum p s.lat.w.toNat d j) (k0_5 p.fmt) := by
  have h := forRange_induct (f := floydSteinbergPixel p) (start := 0)
    (count := s.lat.w.toNat * s.lat.h.toNat) (s := s) (P := DiffusedTo p d s)
    ⟨rfl, fun j hj => by rw [if_neg (Nat.not_lt_zero j), sharesBefore_zero, hlum j hj]⟩
    fun i t _ hi ht => ht.step (by omega)
  rw [Nat.zero_add] at h
  rw [lumAt_of_readCell (h.2 j hj), if_pos hj]

end Sys2Proof.Machine

/-! ## What every command leaves, in terms of what it was given -/

namespace Sys2Proof.Machine

variable {p : Params}

/-! ### The luminances a command leaves -/

/-- The normalised threshold of pixel `j` under the Bayer command of order `n`: the pixel's column
selects the matrix row (R155, R160). -/
def bayerLevel (n w j : Nat) : Rat :=
  (bayerEntry n (colOf w j % sideOf n) (rowOf w j % sideOf n) : Rat) / 4 ^ (n + 1)

/-- What the kernel of a command leaves in LUM at pixel `j`, from the luminances `d` of DECODE and the
number `draws` of earlier draws: the functions of R141, R142, R148, R155 and R176. -/
def resultLum (p : Params) (i : Instr) (draws : Nat) (d : Nat → FmtVal) (j : Nat) : FmtVal :=
  match i with
  | .grayscale _ _ => d j
  | .quantise _ _ => thr (d j) (1 / 2)
  | .whiteNoise _ _ => thr (d j) (p.draw (draws + j))
  | .bayer0 width _ => thr (d j) (bayerLevel 0 width j)
  | .bayer1 width _ => thr (d j) (bayerLevel 1 width j)
  | .bayer2 width _ => thr (d j) (bayerLevel 2 width j)
  | .bayer3 width _ => thr (d j) (bayerLevel 3 width j)
  | .floydSteinberg width _ => thr (diffusedLum p width d j) (1 / 2)

/-- The shape of a good command in numbers: `N = W * H`, whole pixels. -/
theorem goodShape_pixels {w nb : Nat} (h : GoodShape p w nb) :
    0 < w ∧ 4 * (nb / 4) = nb ∧ nb / 4 = w * (nb / 4 / w) ∧ 0 < nb / 4 := by
  obtain ⟨-, -, hw, hle, hmod, -⟩ := h
  obtain ⟨k, rfl⟩ := Nat.dvd_of_mod_eq_zero hmod
  have h4 : 4 * w * k / 4 = w * k := by
    rw [Nat.mul_assoc]; exact Nat.mul_div_cancel_left _ (by norm_num)
  have hk : w * k / w = k := Nat.mul_div_cancel_left _ hw
  rw [h4, hk]
  exact ⟨hw, by ring, rfl, by rw [Nat.mul_assoc] at hle; omega⟩

/-- DECODE has filled LUM. -/
theorem AtKernel.lumAt_eq {i : Instr} {s k : State} (h : AtKernel i s k) {j : Nat}
    (hj : j < i.nbytes / 4) : lumAt chip k j = pixelLum chip s j :=
  lumAt_of_readCell ((h.lum j).trans (if_pos hj))

theorem AtKernel.draws_eq {i : Instr} {s k : State} (h : AtKernel i s k) : k.draws = s.draws :=
  (congrArg State.draws h.frame :)

theorem matIndex_lt (n w j : Nat) : matIndex n w j < sideOf n * sideOf n :=
  rowMajor_lt (Nat.mod_lt _ (by unfold sideOf; positivity))
    (Nat.mod_lt _ (by unfold sideOf; positivity))

/-- The threshold that the Bayer kernel reads from the matrix BUILD has left (R155, R161). -/
theorem AtKernel.bayerThreshold_eq {i : Instr} {s k : State} (h : AtKernel i s k) {n : Nat}
    (hn : n ≤ 3) (hb : isBayer i.tag = true) (ho : bayerOrder i.tag = n) (j : Nat) :
    bayerThreshold chip n j k = bayerLevel n i.width j := by
  obtain ⟨-, hw, -⟩ := h.latched
  have hmod : rowOf i.width j % sideOf n < sideOf n := Nat.mod_lt _ (by unfold sideOf; positivity)
  obtain ⟨hdiv, hmod⟩ := rowMajor_div_mod (r := colOf i.width j % sideOf n) hmod
  have hcell := h.mat (matIndex n i.width j)
  rw [ho, if_pos ⟨hb, matIndex_lt n i.width j⟩] at hcell
  rw [bayerThreshold, hw, matAt, hcell, Option.getD_some, matIndex, hdiv, hmod,
    normalisedThresholdsAreExact chip.fmt n _ hn (by
      rw [toNat_ofNat_bayerEntry hn]; exact bayerEntry_lt _ _ _),
    toNat_ofNat_bayerEntry hn, bayerLevel]

/-- The Bayer kernels. -/
theorem AtKernel.bayerLoop_lum {i : Instr} {s k : State} (h : AtKernel i s k) {n : Nat}
    (hn : n ≤ 3) (hb : isBayer i.tag = true) (ho : bayerOrder i.tag = n) {j : Nat}
    (hj : j < i.nbytes / 4) :
    lumAt chip (forRange (bayerPixel chip n) (i.nbytes / 4) 0 k) j =
      thr (pixelLum chip s j) (bayerLevel n i.width j) := by
  obtain ⟨l, e, hl⟩ := bayerLoop_spec (p := chip) n (i.nbytes / 4) 0 k
  rw [e, lumAt_of_readCell ((hl j).trans (if_pos (by omega))), h.lumAt_eq hj,
    h.bayerThreshold_eq hn hb ho]

/-- Every kernel leaves in LUM what `resultLum` says. -/
theorem AtKernel.kernelLoop_lum {i : Instr} {s k : State} (h : AtKernel i s k)
    (hg : GoodShape chip i.width i.nbytes) {j : Nat} (hj : j < i.nbytes / 4) :
    lumAt chip (forRange (kernelPixel chip i.tag) (i.nbytes / 4) 0 k) j =
      resultLum chip i s.draws (pixelLum chip s) j := by
  cases i with
  | grayscale width nbytes =>
    rw [Instr.tag, kernelPixel_grayscale, grayscaleLoop_spec, h.lumAt_eq hj, resultLum]
  | quantise width nbytes =>
    obtain ⟨l, e, hl⟩ := quantiseLoop_spec (p := chip) (nbytes / 4) 0 k
    rw [Instr.tag, kernelPixel_quantise, Instr.nbytes, e,
      lumAt_of_readCell ((hl j).trans (if_pos ⟨Nat.zero_le _, by rw [Nat.zero_add]; exact hj⟩)),
      h.lumAt_eq hj, k0_5_eq, resultLum]
  | whiteNoise width nbytes =>
    obtain ⟨l, e, hl⟩ := whiteNoiseLoop_spec (p := chip) (nbytes / 4) 0 k
    rw [Instr.tag, kernelPixel_whiteNoise, Instr.nbytes, e,
      lumAt_of_readCell ((hl j).trans (if_pos ⟨Nat.zero_le _, by rw [Nat.zero_add]; exact hj⟩)),
      h.lumAt_eq hj, h.draws_eq, Nat.sub_zero, resultLum]
  | bayer0 width nbytes =>
    exact (congrArg (fun f => lumAt chip (forRange f _ 0 k) j) kernelPixel_bayer0).trans
      (h.bayerLoop_lum (n := 0) (by decide) rfl rfl hj)
  | bayer1 width nbytes =>
    exact (congrArg (fun f => lumAt chip (forRange f _ 0 k) j) kernelPixel_bayer1).trans
      (h.bayerLoop_lum (n := 1) (by decide) rfl rfl hj)
  | bayer2 width nbytes =>
    exact (congrArg (fun f => lumAt chip (forRange f _ 0 k) j) kernelPixel_bayer2).trans
      (h.bayerLoop_lum (n := 2) (by decide) rfl rfl hj)
  | bayer3 width nbytes =>
    exact (congrArg (fun f => lumAt chip (forRange f _ 0 k) j) kernelPixel_bayer3).trans
      (h.bayerLoop_lum (n := 3) (by decide) rfl rfl hj)
  | floydSteinberg width nbytes =>
    obtain ⟨-, hw, -, -, hh⟩ := h.latched
    obtain ⟨-, -, hN, -⟩ := goodShape_pixels hg
    have hsize : k.lat.w.toNat * k.lat.h.toNat = nbytes / 4 := by
      rw [hw, hh]; exact hN.symm
    have hloop := floydSteinbergLoop_lum (p := chip) (d := pixelLum chip s) (s := k)
      (fun j hj => (h.lum j).trans (if_pos (hsize ▸ hj))) j (hsize ▸ hj)
    rw [hsize, hw, k0_5_eq] at hloop
    rw [Instr.tag, kernelPixel_floydSteinberg]
    exact hloop

/-! ### The two ends of a command -/

/-- What a failure leaves (R196): the frame, OUT, and the counter of draws; whether the random source
was asked is said beside it. -/
structure FailsWith (f : Failure) (s t : State) : Prop where
  ends : EndsWithFailure f t
  frame : CommandFrame s t
  draws : t.draws = s.draws
  out : t.outBuf = s.outBuf
  undisturbed : t.disturbed = false

/-- What success leaves (R29), in terms of the state `s` the command was given. -/
structure Succeeds (i : Instr) (s t : State) : Prop where
  ends : EndsDone t
  latched : HasLatched t i.tag i.width i.nbytes
  frame : CommandFrame s t
  asks : t.rngAsks = s.rngAsks + asksOf i
  draws : t.draws = s.draws + asksOf i * (i.nbytes / 4)
  undisturbed : t.disturbed = false
  pixel : s.disturbed = false → ∀ j, j < i.nbytes / 4 → InputWritten i s j →
    OutPixelIs t j (grayByte chip (resultLum chip i s.draws (pixelLum chip s) j))
      (pixelAlpha chip s j)
  free : s.disturbed = false → ∀ j, j < i.nbytes / 4 → ¬InputWritten i s j → ∀ c, c < 4 →
    readCell t.outBuf (byteAddr j c) = some (chip.freeResult s.fresh (byteAddr j c))
  above : OutKeptFrom i.nbytes s t

/-- A command at its kernel has changed nothing but what a command works with. -/
theorem AtKernel.commandFrame {i : Instr} {s k : State} (h : AtKernel i s k) : CommandFrame s k :=
  ⟨(congrArg State.width h.frame :), (congrArg State.nbytes h.frame :),
    (congrArg State.method h.frame :), h.inBuf_eq, (congrArg State.readData h.frame :),
    (congrArg State.host h.frame :), (congrArg State.bufEra h.frame :)⟩

/-- A failure of a running command. -/
theorem failsWith_raise {f : Failure} {s k : State} (hdone : k.done = false)
    (hframe : CommandFrame s k) (hdraws : k.draws = s.draws) (hout : k.outBuf = s.outBuf) :
    FailsWith f s (raise p f k) :=
  ⟨⟨rfl, hdone, rfl, rfl, rfl⟩, hframe, hdraws, hout, rfl⟩

/-- Channel `c` of pixel `j` belongs to pixel `j`. -/
theorem byteAddr_div_mod {j c : Nat} (hc : c < 4) :
    byteAddr j c / 4 = j ∧ byteAddr j c % 4 = c := by
  unfold byteAddr; omega

/-- The successful end of a command that has run its kernel and encoded the result into `o`. -/
theorem AtKernel.succeeds {i : Instr} {s k : State} (h : AtKernel i s k)
    (hg : GoodShape chip i.width i.nbytes) {l : List (Nat × FmtVal)} {o : Memory} {d : Nat}
    (hd : d = s.draws + asksOf i * (i.nbytes / 4))
    (hl : forRange (kernelPixel chip i.tag) (i.nbytes / 4) 0 k = { k with lum := l, draws := d })
    (ho : ∀ a, readCell o a =
      if a < i.nbytes then
        some (if a % 4 = 3 then pixelAlpha chip s (a / 4)
          else grayByte chip ((readCell l (a / 4)).getD (chip.freeLum s.storeEra (a / 4))))
      else readCell s.outBuf a) :
    Succeeds i s
      (endSuccess chip { k with phase := .encode, lum := l, outBuf := o, draws := d }) := by
  obtain ⟨hm, hw, hnb, hn, hh⟩ := h.latched
  have hera : k.storeEra = s.storeEra := (congrArg State.storeEra h.frame :)
  have hfresh : k.fresh = s.fresh := (congrArg State.fresh h.frame :)
  have hasks : k.rngAsks = s.rngAsks + asksOf i := (congrArg State.rngAsks h.frame :)
  have herr : k.err = false := (congrArg State.err h.frame :)
  have hcode : k.errcode = 0 := (congrArg State.errcode h.frame :)
  have hframe := h.commandFrame
  refine
    { ends := ?ends, latched := ?latched, frame := ?frame, asks := ?asks, draws := ?draws,
      undisturbed := ?undisturbed, pixel := fun hs j hj hin => ?pixel,
      free := fun hs j hj hin c hc => ?free, above := fun a ha => ?above }
  case ends => rw [endSuccess_eq]; exact ⟨rfl, rfl, herr, hcode, rfl⟩
  case latched => rw [endSuccess_eq]; exact ⟨hm, hw, hnb, hn, hh⟩
  case frame => rw [endSuccess_eq]; exact hframe
  case asks => rw [endSuccess_eq]; exact hasks
  case draws => rw [endSuccess_eq]; exact hd
  case undisturbed => rw [endSuccess_eq]
  case pixel =>
    refine outPixelIs_of_channels fun c hc => ?_
    obtain ⟨hpix, hchan⟩ := byteAddr_div_mod (j := j) hc
    have hkept := readCell_endSuccess_specified (p := chip) (i := i) (s := s) (a := byteAddr j c)
      (k := { k with phase := .encode, lum := l, outBuf := o, draws := d })
      hm h.inBuf_eq (h.disturbed_eq.trans hs) (hpix.symm ▸ hin)
    refine hkept.trans ((ho _).trans ?_)
    rw [if_pos (by unfold byteAddr; omega), hpix, hchan, ← h.kernelLoop_lum hg hj, hl, ← hera]
    rfl
  case free =>
    obtain ⟨hpix, -⟩ := byteAddr_div_mod (j := j) hc
    refine (readCell_endSuccess_unspecified (p := chip) (i := i) (s := s) (a := byteAddr j c)
      (k := { k with phase := .encode, lum := l, outBuf := o, draws := d })
      hm h.inBuf_eq ?_ (Or.inr (hpix.symm ▸ hin))).trans (by rw [← hfresh])
    rw [hpix]; exact hn.symm ▸ hj
  case above =>
    obtain ⟨-, h4, -⟩ := goodShape_pixels hg
    refine (readCell_endSuccess_above (p := chip) (a := a)
      (k := { k with phase := .encode, lum := l, outBuf := o, draws := d }) ?_).trans
      ((ho a).trans (if_neg (by omega)))
    have : i.nbytes / 4 ≤ a / 4 := Nat.div_le_div_right ha
    exact hn.symm ▸ this

/-- Everything a well-formed command can do, in terms of the state it was given: it fails at CHECK; or
the random source does not initialise; or it succeeds. -/
theorem exec_outcome {i : Instr} (s : State) (hwf : i.wellFormed = true) :
    (¬GoodShape chip i.width i.nbytes ∧ ∃ t, exec i s = .next t ∧
      FailsWith .invalidImageShape s t ∧ t.rngAsks = s.rngAsks) ∨
    (GoodShape chip i.width i.nbytes ∧ i.tag = 0b010#3 ∧ chip.rngOk s.rngAsks = false ∧
      ∃ t, exec i s = .next t ∧ FailsWith .randomSourceUnavailable s t ∧
        t.rngAsks = s.rngAsks + 1) ∨
    (GoodShape chip i.width i.nbytes ∧ (i.tag = 0b010#3 → chip.rngOk s.rngAsks = true) ∧
      ∃ t, exec i s = .next t ∧ Succeeds i s t) := by
  rcases exec_cases s hwf with
    ⟨hbad, e⟩ | ⟨hg, htag, hrng, k, hk, e⟩ | ⟨hg, hrng, k, l, o, hk, hl, e, ho⟩
  · exact Or.inl ⟨hbad, _, e,
      failsWith_raise rfl ⟨rfl, rfl, rfl, rfl, rfl, rfl, rfl⟩ rfl rfl, rfl⟩
  · have hasks : k.rngAsks = s.rngAsks + asksOf i := (congrArg State.rngAsks hk.frame :)
    rw [asksOf, if_pos htag] at hasks
    exact Or.inr (Or.inl ⟨hg, htag, hrng, _, e,
      failsWith_raise hk.done_eq hk.commandFrame hk.draws_eq (congrArg State.outBuf hk.frame :),
      hasks⟩)
  · exact Or.inr (Or.inr ⟨hg, hrng, _, e, hk.succeeds hg rfl hl ho⟩)

/-- A good shape is well-formed. -/
theorem wellFormed_of_goodShape {i : Instr} (h : GoodShape p i.width i.nbytes) :
    i.wellFormed = true := wellFormed_iff.mpr ⟨h.1, h.2.1⟩

/-- A command other than WhiteNoise on a good shape succeeds. -/
theorem exec_succeeds {i : Instr} (s : State) (hg : GoodShape chip i.width i.nbytes)
    (ht : i.tag ≠ 0b010#3) : ∃ t, exec i s = .next t ∧ Succeeds i s t := by
  rcases exec_outcome s (wellFormed_of_goodShape hg) with ⟨hbad, -⟩ | ⟨-, htag, -⟩ | ⟨-, -, h⟩
  · exact absurd hg hbad
  · exact absurd htag ht
  · exact h

end Sys2Proof.Machine

/-! ## The eight commands (spec/42_dither_pointwise.md, spec/43_floyd_steinberg.md) -/

namespace Sys2Proof.Machine

/-! ### A thresholded luminance as a byte -/

/-- A thresholded luminance encodes to white or black (R140, R114). -/
theorem grayByte_thr (x t : FmtVal) : grayByte chip (thr x t) = blackOrWhite (x > t) := by
  unfold thr blackOrWhite
  split
  · exact grayByte_one chip_pow_one
  · exact grayByte_zero chip

theorem outPixelIs_congr {t : State} {j : Nat} {g g' a : Byte} (h : OutPixelIs t j g a)
    (hg : g = g') : OutPixelIs t j g' a := hg ▸ h

/-! ### The commands that treat each pixel by itself -/

theorem inputWritten_iff_of_ne {i : Instr} {s : State} {k : Nat} (h : i.tag ≠ 0b111#3) :
    InputWritten i s k ↔ ColorWritten s k := by rw [InputWritten, if_neg h]

theorem inputWritten_floydSteinberg {width nbytes : Nat} {s : State} {k : Nat} :
    InputWritten (.floydSteinberg width nbytes) s k ↔ ∀ j, j ≤ k → ColorWritten s j := by
  rw [InputWritten, Instr.tag, if_pos rfl]

/-- Only WhiteNoise asks the random source (R148, R149). -/
theorem Succeeds.randomSourceUntouched {i : Instr} {s t : State} (h : Succeeds i s t)
    (ht : i.tag ≠ 0b010#3) : RandomSourceUntouched s t := by
  have hasks := h.asks
  have hdraws := h.draws
  rw [asksOf, if_neg ht] at hasks hdraws
  exact ⟨hasks, hdraws.trans (by rw [Nat.zero_mul, Nat.add_zero])⟩

/-- What Grayscale, Quantise and the Bayer commands do on a good shape. -/
theorem exec_pointwise {i : Instr} {s : State} (hg : GoodShape chip i.width i.nbytes)
    (hs : s.disturbed = false) (hrng : i.tag ≠ 0b010#3) (hfs : i.tag ≠ 0b111#3) :
    ∃ t, exec i s = .next t ∧ EndsDone t ∧ HasLatched t i.tag i.width i.nbytes ∧
      CommandFrame s t ∧ RandomSourceUntouched s t ∧
      (∀ j, j < i.nbytes / 4 → ColorWritten s j →
        OutPixelIs t j (grayByte chip (resultLum chip i s.draws (pixelLum chip s) j))
          (pixelAlpha chip s j)) ∧
      OutKeptFrom i.nbytes s t := by
  obtain ⟨t, e, h⟩ := exec_succeeds s hg hrng
  exact ⟨t, e, h.ends, h.latched, h.frame, h.randomSourceUntouched hrng,
    fun j hj hc => h.pixel hs j hj ((inputWritten_iff_of_ne hfs).mpr hc), h.above⟩

/-- Settles O6. -/
theorem grayscaleEmitsEncodedLuminance : Obligations.GrayscaleEmitsEncodedLuminance :=
  fun width nbytes _ hg hs =>
    exec_pointwise (i := .grayscale width nbytes) hg hs (by simp [Instr.tag]) (by simp [Instr.tag])

/-- Settles O7. -/
theorem quantiseThresholdsAtHalf : Obligations.QuantiseThresholdsAtHalf := by
  intro width nbytes s hg hs
  obtain ⟨t, e, hends, hlat, hframe, hrng, hpix, habove⟩ :=
    exec_pointwise (i := .quantise width nbytes) hg hs (by simp [Instr.tag]) (by simp [Instr.tag])
  exact ⟨t, e, hends, hlat, hframe, hrng,
    fun j hj hc => outPixelIs_congr (hpix j hj hc) (grayByte_thr _ _), habove⟩

/-- Settles O8: the two answers of the random source are two of the outcomes of a command; the third,
a bad shape, is excluded. -/
theorem whiteNoiseThresholdsAgainstDraws : Obligations.WhiteNoiseThresholdsAgainstDraws := by
  intro width nbytes s hg hs
  have hasks : asksOf (.whiteNoise width nbytes) = 1 := if_pos rfl
  rcases exec_outcome s (wellFormed_of_goodShape (i := .whiteNoise width nbytes) hg) with
    ⟨hbad, -⟩ | ⟨-, -, hno, t, e, h, hrng⟩ | ⟨-, hyes, t, e, h⟩
  · exact absurd hg hbad
  · exact ⟨t, e, h.frame, hrng, fun hyes => absurd (hno.symm.trans hyes) Bool.false_ne_true,
      fun _ => ⟨h.ends, h.draws, h.out⟩⟩
  · have hdraws := h.draws
    rw [hasks, Nat.one_mul] at hdraws
    refine ⟨t, e, h.frame, h.asks.trans (by rw [hasks]), fun _ => ⟨h.ends, h.latched, hdraws,
      fun j hj hc => ?_, h.above⟩, fun hno => absurd (hno.symm.trans (hyes rfl)) Bool.false_ne_true⟩
    exact outPixelIs_congr (h.pixel hs j hj ((inputWritten_iff_of_ne (by simp [Instr.tag])).mpr hc))
      (grayByte_thr _ _)

/-- The threshold of a Bayer command by the closed form of the matrix (R129, R161). -/
theorem bayerLevel_eq (n w j : Nat) :
    bayerLevel n w j =
      (bayerClosed n (j % w % 2 ^ (n + 1)) (j / w % 2 ^ (n + 1)) : Rat) / 4 ^ (n + 1) := by
  unfold bayerLevel colOf rowOf sideOf
  rw [matrixRecursionHasClosedForm n _ _ (mod_two_pow_lt _ _) (mod_two_pow_lt _ _)]

/-- One Bayer command on a good shape, given what its kernel leaves. -/
theorem exec_bayer {i : Instr} {n : Nat} {s : State} (hg : GoodShape chip i.width i.nbytes)
    (hs : s.disturbed = false) (hrng : i.tag ≠ 0b010#3) (hfs : i.tag ≠ 0b111#3)
    (hres : ∀ d j, resultLum chip i s.draws d j = thr (d j) (bayerLevel n i.width j)) :
    ∃ t, exec i s = .next t ∧ EndsDone t ∧ HasLatched t i.tag i.width i.nbytes ∧
      CommandFrame s t ∧ RandomSourceUntouched s t ∧
      (∀ j, j < i.nbytes / 4 → ColorWritten s j →
        OutPixelIs t j (blackOrWhite (pixelLum chip s j > bayerLevel n i.width j))
          (pixelAlpha chip s j)) ∧
      OutKeptFrom i.nbytes s t := by
  obtain ⟨t, e, hends, hlat, hframe, hun, hpix, habove⟩ := exec_pointwise hg hs hrng hfs
  exact ⟨t, e, hends, hlat, hframe, hun,
    fun j hj hc => outPixelIs_congr (hpix j hj hc) (by rw [hres, grayByte_thr]), habove⟩

/-- The four Bayer commands with their orders (R156 to R159). -/
theorem exec_bayer_of_mem {width nbytes : Nat} {s : State} (hg : GoodShape chip width nbytes)
    (hs : s.disturbed = false) {i : Instr} {n : Nat}
    (hi : (i, n) ∈ [(Instr.bayer0 width nbytes, 0), (Instr.bayer1 width nbytes, 1),
      (Instr.bayer2 width nbytes, 2), (Instr.bayer3 width nbytes, 3)]) :
    ∃ t, exec i s = .next t ∧ EndsDone t ∧ HasLatched t i.tag width nbytes ∧
      CommandFrame s t ∧ RandomSourceUntouched s t ∧
      (∀ j, j < nbytes / 4 → ColorWritten s j →
        OutPixelIs t j (blackOrWhite (pixelLum chip s j > bayerLevel n width j))
          (pixelAlpha chip s j)) ∧
      OutKeptFrom nbytes s t := by
  simp only [List.mem_cons, Prod.mk.injEq, List.not_mem_nil, or_false] at hi
  rcases hi with ⟨rfl, rfl⟩ | ⟨rfl, rfl⟩ | ⟨rfl, rfl⟩ | ⟨rfl, rfl⟩ <;>
    exact exec_bayer hg hs (by simp [Instr.tag]) (by simp [Instr.tag]) fun _ _ => rfl

/-- Settles O9. -/
theorem bayerCommandsThresholdAgainstMatrix : Obligations.BayerCommandsThresholdAgainstMatrix := by
  intro width nbytes s hg hs c hc
  have hmem : (c.1, c.2.2) ∈ [(Instr.bayer0 width nbytes, 0), (Instr.bayer1 width nbytes, 1),
      (Instr.bayer2 width nbytes, 2), (Instr.bayer3 width nbytes, 3)] :=
    List.mem_map_of_mem (f := fun c : Instr × BitVec 3 × Nat => (c.1, c.2.2)) hc
  have htag : c.1.tag = c.2.1 := by
    simp only [List.mem_cons, List.not_mem_nil, or_false] at hc
    rcases hc with rfl | rfl | rfl | rfl <;> rfl
  obtain ⟨t, e, hends, hlat, hframe, hun, hpix, habove⟩ := exec_bayer_of_mem hg hs hmem
  rw [htag] at hlat
  refine ⟨t, e, hends, hlat, hframe, hun, fun j hj hw => ?_, habove⟩
  have h := hpix j hj hw
  simp only [bayerLevel_eq] at h
  exact h

/-! ### FloydSteinberg -/

/-- The error against the nearer of 0 and 1, white above one half (R171). -/
theorem diffusionError_eq {p : Params} (old : FmtVal) :
    diffusionError p old = subF p.fmt old (if old > 1 / 2 then 1 else 0) := by
  rw [diffusionError, k0_5_eq, thr]

/-- Settles O10: `old` is the recurrence `diffusedLum`, `e` its errors. -/
theorem floydSteinbergFollowsTheRecurrence : Obligations.FloydSteinbergFollowsTheRecurrence := by
  intro width nbytes s hg hs
  obtain ⟨hw, -⟩ := goodShape_pixels hg
  obtain ⟨t, e, h⟩ := exec_succeeds (i := .floydSteinberg width nbytes) s hg (by simp [Instr.tag])
  refine ⟨t, e, h.ends, h.latched, h.frame, h.randomSourceUntouched (by simp [Instr.tag]),
    ⟨diffusedLum chip width (pixelLum chip s),
      fun i => diffusionError chip (diffusedLum chip width (pixelLum chip s) i),
      fun i hi => ⟨diffusedLum_eq hw _ i, ?_, fun hc => ?_⟩⟩, h.above⟩
  · exact diffusionError_eq _
  · exact outPixelIs_congr (h.pixel hs i hi (inputWritten_floydSteinberg.mpr hc)) (grayByte_thr _ _)

/-! ### Failures -/

/-- Settles O11. -/
theorem badShapeRaisesInvalidImageShape : Obligations.BadShapeRaisesInvalidImageShape := by
  intro i s hwf hbad
  rcases exec_outcome s hwf with ⟨-, t, e, h, hrng⟩ | ⟨hg, -⟩ | ⟨hg, -⟩
  · exact ⟨t, e, h.ends, h.frame, ⟨hrng, h.draws⟩, h.out⟩
  · exact absurd hg hbad
  · exact absurd hg hbad

/-- Only WhiteNoise has the tag 2 (R78). -/
theorem tag_ne_two {i : Instr} (h : ∀ width nbytes, i ≠ .whiteNoise width nbytes) :
    i.tag ≠ 0b010#3 := by
  cases i with
  | whiteNoise width nbytes => exact absurd rfl (h width nbytes)
  | _ => simp [Instr.tag]

/-- A command whose operands are cut down to their low 32 bits (log 20). -/
def lowOperands (i : Instr) : Instr := commandOf i.tag (i.width % 2 ^ 32) (i.nbytes % 2 ^ 32)

theorem wellFormed_lowOperands (i : Instr) : (lowOperands i).wellFormed = true := by
  rw [wellFormed_iff, lowOperands, width_commandOf, nbytes_commandOf]
  exact ⟨Nat.mod_lt _ (by norm_num), Nat.mod_lt _ (by norm_num)⟩

/-- An ill-formed command runs with the low 32 bits of its operands (log 20). -/
theorem exec_lowOperands (i : Instr) (s : State) : exec (lowOperands i) s = exec i s := by
  have h : ∀ v, BitVec.ofNat 32 (v % 2 ^ 32) = BitVec.ofNat 32 v := fun v =>
    BitVec.eq_of_toNat_eq (by simp)
  rw [exec_eq_run, exec_eq_run, lowOperands, tag_commandOf, width_commandOf, nbytes_commandOf, h, h]

/-- Settles O12: the random source is asked only on a good shape, and only by WhiteNoise; a command
with ill-formed operands runs as one with their low bits. -/
theorem shapeIsCheckedBeforeTheRandomSource : Obligations.ShapeIsCheckedBeforeTheRandomSource := by
  constructor
  · intro width nbytes s hw hn hbad
    obtain ⟨t, e, hends, -, hrng, -⟩ := badShapeRaisesInvalidImageShape (.whiteNoise width nbytes) s
      (wellFormed_iff.mpr ⟨hw, hn⟩) hbad
    exact ⟨t, e, hends, hrng⟩
  · intro i s t hne he
    have htag : (lowOperands i).tag ≠ 0b010#3 := by
      rw [lowOperands, tag_commandOf]; exact tag_ne_two hne
    rw [← exec_lowOperands] at he
    rcases exec_outcome s (wellFormed_lowOperands i) with
      ⟨-, t', e, h, -⟩ | ⟨-, ht, -⟩ | ⟨-, -, t', e, h⟩
    · obtain rfl := Host.Outcome.next.inj (e.symm.trans he)
      obtain ⟨-, -, -, hcode, -⟩ := h.ends
      rw [hcode]; decide
    · exact absurd ht htag
    · obtain rfl := Host.Outcome.next.inj (e.symm.trans he)
      obtain ⟨-, -, -, hcode, -⟩ := h.ends
      rw [hcode]; decide

/-- Settles O39: the operands at reset are 0, which is no good shape. -/
theorem commandAfterResetFails : Obligations.CommandAfterResetFails := by
  intro v
  have hstart := startLatchesTheOperands
    { State.reset with host := [.writeReg 0 1], method := tagOf v } 1 [] rfl rfl rfl
  generalize hs₂ : ({ State.reset with
    method := tagOf v, lat := { State.reset.lat with m := tagOf v }, busy := true
    phase := .check } : State) = s₂
  have hrun : step s₂ = exec (fetch s₂) s₂ := by
    subst hs₂
    exact (step_of_no_move rfl).trans (blockRun_of_check rfl)
  have hfetch : (fetch s₂).width = 0 := by
    subst hs₂
    exact width_commandOf _ _ _
  obtain ⟨hwf, -⟩ := decodedCommandCarriesItsRegisters (s₂.lat.m.setWidth 32) s₂.lat.w s₂.lat.nb
  obtain ⟨t, e, hends, -, -, hout⟩ := badShapeRaisesInvalidImageShape (fetch s₂) s₂ hwf
    fun h => by obtain ⟨-, -, h1, -⟩ := h; omega
  refine ⟨{ State.reset with host := [.writeReg 0 1], method := tagOf v }, s₂, t, rfl, ?_,
    hrun.trans e, ?_, hends, hout.trans ?_⟩ <;> subst hs₂
  · exact hstart
  · rfl
  · rfl

/-! ### The ends of every command -/

/-- Settles O16. -/
theorem everyCommandEndsAndKeepsItsFrame : Obligations.EveryCommandEndsAndKeepsItsFrame := by
  intro i s hwf
  have fails : ∀ {f t}, FailsWith f s t → exec i s = .next t →
      ∃ t, exec i s = .next t ∧ t.busy = false ∧ t.phase = .idle ∧ (t.done = true ↔ t.err = false) ∧
        CommandFrame s t ∧ OutKeptFrom i.nbytes s t ∧ (t.done = false → t.outBuf = s.outBuf) :=
    fun {f t} h e => by
      obtain ⟨hbusy, hdone, herr, -, hphase⟩ := h.ends
      exact ⟨t, e, hbusy, hphase, by simp [hdone, herr], h.frame, fun a _ => by rw [h.out],
        fun _ => h.out⟩
  rcases exec_outcome s hwf with ⟨-, t, e, h, -⟩ | ⟨-, -, -, t, e, h, -⟩ | ⟨-, -, t, e, h⟩
  · exact fails h e
  · exact fails h e
  · obtain ⟨hbusy, hdone, herr, -, hphase⟩ := h.ends
    exact ⟨t, e, hbusy, hphase, by simp [hdone, herr], h.frame, h.above,
      fun hd => absurd (hdone.symm.trans hd) (by decide)⟩

/-- Settles O21. -/
theorem disturbedCommandStillEnds : Obligations.DisturbedCommandStillEnds := by
  intro i s hwf _
  rcases exec_outcome s hwf with ⟨-, t, e, h, -⟩ | ⟨-, -, -, t, e, h, -⟩ | ⟨-, -, t, e, h⟩
  · exact ⟨t, e, Or.inr ⟨_, h.ends⟩, h.undisturbed, h.frame, fun a _ => by rw [h.out]⟩
  · exact ⟨t, e, Or.inr ⟨_, h.ends⟩, h.undisturbed, h.frame, fun a _ => by rw [h.out]⟩
  · exact ⟨t, e, Or.inl h.ends, h.undisturbed, h.frame, h.above⟩

/-- A command that has set DONE has succeeded. -/
theorem succeeds_of_done {i : Instr} {s t : State} (hwf : i.wellFormed = true)
    (he : exec i s = .next t) (hdone : t.done = true) :
    GoodShape chip i.width i.nbytes ∧ Succeeds i s t := by
  rcases exec_outcome s hwf with ⟨-, t', e, h, -⟩ | ⟨-, -, -, t', e, h, -⟩ | ⟨hg, -, t', e, h⟩ <;>
    obtain rfl := Host.Outcome.next.inj (e.symm.trans he)
  · obtain ⟨-, hd, -⟩ := h.ends; exact absurd (hd.symm.trans hdone) (by decide)
  · obtain ⟨-, hd, -⟩ := h.ends; exact absurd (hd.symm.trans hdone) (by decide)
  · exact ⟨hg, h⟩

/-- Settles O19. -/
theorem unwrittenInputMakesItsPixelAnyValue : Obligations.UnwrittenInputMakesItsPixelAnyValue := by
  intro i s t hwf hs he hdone
  obtain ⟨-, h⟩ := succeeds_of_done hwf he hdone
  exact h.free hs

end Sys2Proof.Machine

/-! ## The luminance of a pixel (spec/40_color_converter.md sections 2 to 4) -/

namespace Sys2Proof.Machine

variable {p : Params} {f : Fmt}

/-! ### The channel before its power, and the mixture of three channels -/

/-- The byte `v` divided by 255 (R106). -/
def unitByte (f : Fmt) (v : Byte) : FmtVal := divF f (u8ToF v) (k255 f)

/-- What `lin` raises to the power `K2_4` (R106). -/
def powBase (f : Fmt) (v : Byte) : FmtVal := divF f (addF f (unitByte f v) (k055 f)) (k1055 f)

/-- The weighted sum of three linear channels (R107). -/
def lumMix (f : Fmt) (r g b : FmtVal) : FmtVal :=
  addF f (addF f (mulF f (kR f) r) (mulF f (kG f) g)) (mulF f (kB f) b)

theorem lumOf_eq (r g b : Byte) : lumOf p r g b = lumMix p.fmt (lin p r) (lin p g) (lin p b) := rfl

theorem lin_eq (v : Byte) :
    lin p v = if unitByte p.fmt v < k04045 p.fmt then divF p.fmt (unitByte p.fmt v) (k12_92 p.fmt)
      else p.pow (powBase p.fmt v) (k2_4 p.fmt) := rfl

theorem divF_le_divF {a b c : FmtVal} (hc : 0 ≤ c) (h : a ≤ b) : divF f a c ≤ divF f b c :=
  rnd_mono f (div_le_div_of_nonneg_right h hc)

theorem addF_le_addF {a b c d : FmtVal} (h₁ : a ≤ b) (h₂ : c ≤ d) : addF f a c ≤ addF f b d :=
  rnd_mono f (add_le_add h₁ h₂)

theorem mulF_le_mulF {k a b : FmtVal} (hk : 0 ≤ k) (h : a ≤ b) : mulF f k a ≤ mulF f k b :=
  rnd_mono f (mul_le_mul_of_nonneg_left h hk)

/-- The constants that a channel is divided by or weighted with are not negative (R97). -/
theorem constants_nonneg (f : Fmt) :
    0 ≤ k255 f ∧ 0 ≤ k12_92 f ∧ 0 ≤ k1055 f ∧ 0 ≤ kR f ∧ 0 ≤ kG f ∧ 0 ≤ kB f := by
  refine ⟨rnd_nonneg ?_, rnd_nonneg ?_, rnd_nonneg ?_, rnd_nonneg ?_, rnd_nonneg ?_,
    rnd_nonneg ?_⟩ <;> norm_num

theorem unitByte_mono {v v' : Byte} (h : v.toNat ≤ v'.toNat) : unitByte f v ≤ unitByte f v' :=
  divF_le_divF (constants_nonneg f).1 (by unfold u8ToF; exact_mod_cast h)

theorem powBase_mono {v v' : Byte} (h : v.toNat ≤ v'.toNat) : powBase f v ≤ powBase f v' := by
  obtain ⟨-, -, h1055, -⟩ := constants_nonneg f
  exact divF_le_divF h1055 (addF_le_addF (unitByte_mono h) le_rfl)

theorem lumMix_mono {r r' g g' b b' : FmtVal} (hr : r ≤ r') (hg : g ≤ g') (hb : b ≤ b') :
    lumMix f r g b ≤ lumMix f r' g' b' := by
  obtain ⟨-, -, -, hR, hG, hB⟩ := constants_nonneg f
  exact addF_le_addF (addF_le_addF (mulF_le_mulF hR hr) (mulF_le_mulF hG hg)) (mulF_le_mulF hB hb)

/-! ### The two branches of `lin` -/

/-- The break point lies between the bytes 10 and 11 in both formats (R106). -/
theorem unitByte_ten_eleven (f : Fmt) : unitByte f 10 < k04045 f ∧ k04045 f ≤ unitByte f 11 := by
  cases f <;> decide +kernel

theorem unitByte_lt_iff (v : Byte) : unitByte f v < k04045 f ↔ v.toNat ≤ 10 := by
  obtain ⟨h10, h11⟩ := unitByte_ten_eleven f
  refine ⟨fun h => ?_, fun h => (unitByte_mono h).trans_lt h10⟩
  by_contra hv
  have h11v : (11 : Byte).toNat ≤ v.toNat := not_le.mp hv
  exact absurd (h11.trans (unitByte_mono h11v)) (not_le.mpr h)

theorem lin_of_le_ten {v : Byte} (h : v.toNat ≤ 10) :
    lin p v = divF p.fmt (unitByte p.fmt v) (k12_92 p.fmt) := by
  rw [lin_eq, if_pos ((unitByte_lt_iff v).mpr h)]

theorem lin_of_ten_lt {v : Byte} (h : 10 < v.toNat) :
    lin p v = p.pow (powBase p.fmt v) (k2_4 p.fmt) := by
  rw [lin_eq, if_neg (by rw [unitByte_lt_iff]; omega)]

/-- The arguments of POW at the bytes that matter (R104, R117). -/
theorem powBase_values (f : Fmt) :
    930 / 10000 ≤ powBase f 11 ∧ powBase f 255 = 1 ∧ powBase f 187 ≤ 7473 / 10000 ∧
      7509 / 10000 ≤ powBase f 188 := by
  cases f <;> decide +kernel

theorem byte_le (v : Byte) : v.toNat ≤ (255 : Byte).toNat := by
  have := v.isLt
  rw [show (255 : Byte).toNat = 255 from rfl]
  omega

theorem powBase_le_one (v : Byte) : powBase f v ≤ 1 := by
  obtain ⟨-, h255, -⟩ := powBase_values f
  exact h255 ▸ powBase_mono (byte_le v)

/-- POW is called at an argument of R104. -/
theorem powArg_powBase {v : Byte} (h : 10 < v.toNat) : PowArg f (powBase f v) (k2_4 f) := by
  obtain ⟨h11, -⟩ := powBase_values f
  exact ⟨isFmt_rnd f _, powBase_le_one v, Or.inl ⟨rfl, h11.trans (powBase_mono h)⟩⟩

theorem lin_zero (p : Params) : lin p 0 = 0 := by
  have h : divF p.fmt (unitByte p.fmt 0) (k12_92 p.fmt) = 0 := by
    cases p.fmt <;> decide +kernel
  rw [lin_of_le_ten (by decide), h]

/-- White is linear white, by property P1 (R104). -/
theorem lin_white : lin chip 255 = 1 := by
  obtain ⟨-, h255, -⟩ := powBase_values chip.fmt
  rw [lin_of_ten_lt (by decide), h255]
  exact Config.chip.pow_admitted.one _ (Or.inl rfl)

/-- Settles O53. -/
theorem linearBranchEndsAtTen : Obligations.LinearBranchEndsAtTen :=
  ⟨fun _ v => unitByte_lt_iff v, lin_zero chip, lin_white⟩

/-! ### Luminances lie in [0, 1] -/

/-- A linear channel lies in [0, 1]: by rounding on the linear branch, by P2 on the other. -/
theorem lin_unit (v : Byte) : 0 ≤ lin chip v ∧ lin chip v ≤ 1 := by
  rcases Nat.lt_or_ge 10 v.toNat with hv | hv
  · rw [lin_of_ten_lt hv]
    obtain ⟨h0, h1⟩ := Config.chip.pow_admitted.unit _ _ (powArg_powBase hv)
    exact ⟨h0.le, h1⟩
  · have hend : divF chip.fmt (unitByte chip.fmt 10) (k12_92 chip.fmt) ≤ 1 := by
      cases chip.fmt <;> decide +kernel
    obtain ⟨h255, h12, -⟩ := constants_nonneg chip.fmt
    rw [lin_of_le_ten hv]
    refine ⟨rnd_nonneg (div_nonneg (rnd_nonneg (div_nonneg ?_ h255)) h12),
      (divF_le_divF h12 (unitByte_mono hv)).trans hend⟩
    unfold u8ToF
    positivity

/-- The weights add up to 1 after rounding (R108). -/
theorem lumMix_ends (f : Fmt) : lumMix f 0 0 0 = 0 ∧ lumMix f 1 1 1 = 1 := by
  cases f <;> decide +kernel

theorem lumOf_black (p : Params) : lumOf p 0 0 0 = 0 := by
  rw [lumOf_eq, lin_zero, (lumMix_ends p.fmt).1]

theorem lumOf_white : lumOf chip 255 255 255 = 1 := by
  rw [lumOf_eq, lin_white, (lumMix_ends chip.fmt).2]

theorem lumOf_unit (r g b : Byte) : 0 ≤ lumOf chip r g b ∧ lumOf chip r g b ≤ 1 := by
  obtain ⟨h0, h1⟩ := lumMix_ends chip.fmt
  obtain ⟨hr, hr'⟩ := lin_unit r
  obtain ⟨hg, hg'⟩ := lin_unit g
  obtain ⟨hb, hb'⟩ := lin_unit b
  rw [lumOf_eq]
  exact ⟨h0 ▸ lumMix_mono hr hg hb, h1 ▸ lumMix_mono hr' hg' hb'⟩

/-- Settles O54. -/
theorem luminanceStaysInUnitInterval : Obligations.LuminanceStaysInUnitInterval :=
  ⟨lumOf_unit, lumOf_black chip, lumOf_white⟩

/-! ### Where a gray pixel passes one half -/

/-- `x ^ a ≤ c ^ b` for `x ≤ 1`, when the exponent `a / b` is at least `m / k` and `x ^ m ≤ c ^ k`: a
comparison with huge exponents from one with small exponents. -/
theorem pow_le_pow_of_exponent_le {x c : Rat} {a b m k : Nat} (hx : 0 ≤ x) (hx1 : x ≤ 1)
    (hc : 0 ≤ c) (hk : k ≠ 0) (h : m * b ≤ k * a) (hxc : x ^ m ≤ c ^ k) : x ^ a ≤ c ^ b := by
  refine (pow_le_pow_iff_left₀ (pow_nonneg hx a) (pow_nonneg hc b) hk).mp ?_
  calc (x ^ a) ^ k = x ^ (k * a) := by rw [← pow_mul, Nat.mul_comm]
    _ ≤ x ^ (m * b) := pow_le_pow_of_le_one hx hx1 h
    _ = (x ^ m) ^ b := pow_mul x m b
    _ ≤ (c ^ k) ^ b := pow_le_pow_left₀ (pow_nonneg hx m) hxc b
    _ = (c ^ b) ^ k := by rw [← pow_mul, ← pow_mul, Nat.mul_comm]

/-- The same from below: the exponent `a / b` is at most `m / k` and `c ^ k ≤ x ^ m`. -/
theorem pow_le_pow_of_le_exponent {x c : Rat} {a b m k : Nat} (hx : 0 ≤ x) (hx1 : x ≤ 1)
    (hc : 0 ≤ c) (hk : k ≠ 0) (h : k * a ≤ m * b) (hxc : c ^ k ≤ x ^ m) : c ^ b ≤ x ^ a := by
  refine (pow_le_pow_iff_left₀ (pow_nonneg hc b) (pow_nonneg hx a) hk).mp ?_
  calc (c ^ b) ^ k = (c ^ k) ^ b := by rw [← pow_mul, ← pow_mul, Nat.mul_comm]
    _ ≤ (x ^ m) ^ b := pow_le_pow_left₀ (pow_nonneg hc k) hxc b
    _ = x ^ (m * b) := (pow_mul x m b).symm
    _ ≤ x ^ (k * a) := pow_le_pow_of_le_one hx hx1 h
    _ = (x ^ a) ^ k := by rw [← pow_mul, Nat.mul_comm]

/-- A value of the format that is at least the real power is at least POW (P4). -/
theorem pow_le_of_le {pow : Rat → Rat → Rat} (hp : PowAdmitted f pow) {x y c : Rat}
    (ha : PowArg f x y) (hc : IsFmt f c) (hc0 : 0 ≤ c) (h : x ^ y.num.toNat ≤ c ^ y.den) :
    pow x y ≤ c := by
  rcases hp.faithful x y ha with ⟨hmost, -⟩ | ⟨-, hleast⟩
  · rcases hmost with h0 | hle
    · exact h0.trans hc0
    · obtain ⟨hpos, -⟩ := hp.unit x y ha
      exact (pow_le_pow_iff_left₀ hpos.le hc0 y.den_nz).mp (hle.trans h)
  · exact hleast c hc ⟨hc0, h⟩

/-- A value of the format that is at most the real power is at most POW (P4). -/
theorem le_pow_of_le {pow : Rat → Rat → Rat} (hp : PowAdmitted f pow) {x y c : Rat}
    (ha : PowArg f x y) (hc : IsFmt f c) (hc0 : 0 ≤ c) (h : c ^ y.den ≤ x ^ y.num.toNat) :
    c ≤ pow x y := by
  rcases hp.faithful x y ha with ⟨-, hgreatest⟩ | ⟨⟨hpos, hge⟩, -⟩
  · exact hgreatest c hc (Or.inr h)
  · exact (pow_le_pow_iff_left₀ hc0 hpos y.den_nz).mp (h.trans hge)

/-- The exponent `K2_4` is near 2.4 (R97). -/
theorem k2_4_bounds (f : Fmt) :
    239 * (k2_4 f).den ≤ 100 * (k2_4 f).num.toNat ∧
      100 * (k2_4 f).num.toNat ≤ 241 * (k2_4 f).den := by
  cases f <;> decide +kernel

/-- Byte 187 is below one half in linear light. -/
theorem lin_187_le : lin chip 187 ≤ 511 / 1024 := by
  obtain ⟨h11, -, h187, -⟩ := powBase_values chip.fmt
  have harg : PowArg chip.fmt (powBase chip.fmt 187) (k2_4 chip.fmt) := powArg_powBase (by decide)
  have hx1 : powBase chip.fmt 187 ≤ 1 := powBase_le_one _
  have hx0 : 0 ≤ powBase chip.fmt 187 :=
    le_trans (by norm_num) (h11.trans (powBase_mono (by decide)))
  rw [lin_of_ten_lt (by decide)]
  refine pow_le_of_le Config.chip.pow_admitted harg ?_ (by norm_num) ?_
  · exact_mod_cast isFmt_natCast_div (f := chip.fmt) (k := 511) (n := 5) (by norm_num) (by norm_num)
  · exact pow_le_pow_of_exponent_le hx0 hx1 (by norm_num) (by norm_num) (k2_4_bounds chip.fmt).1
      ((pow_le_pow_left₀ hx0 h187 239).trans (by norm_num))

/-- Byte 188 is above one half in linear light. -/
theorem le_lin_188 : 513 / 1024 ≤ lin chip 188 := by
  obtain ⟨h11, -, -, h188⟩ := powBase_values chip.fmt
  have harg : PowArg chip.fmt (powBase chip.fmt 188) (k2_4 chip.fmt) := powArg_powBase (by decide)
  have hx1 : powBase chip.fmt 188 ≤ 1 := powBase_le_one _
  have hx0 : 0 ≤ powBase chip.fmt 188 := le_trans (by norm_num) h188
  rw [lin_of_ten_lt (by decide)]
  refine le_pow_of_le Config.chip.pow_admitted harg ?_ (by norm_num) ?_
  · exact_mod_cast isFmt_natCast_div (f := chip.fmt) (k := 513) (n := 5) (by norm_num) (by norm_num)
  · exact pow_le_pow_of_le_exponent hx0 hx1 (by norm_num) (by norm_num) (k2_4_bounds chip.fmt).2
      (le_trans (by norm_num) (pow_le_pow_left₀ (by norm_num) h188 241))

/-- Beyond the linear branch `lin` is monotone, by P3 (R104). -/
theorem lin_mono {v v' : Byte} (hv : 10 < v.toNat) (h : v.toNat ≤ v'.toNat) :
    lin chip v ≤ lin chip v' := by
  rw [lin_of_ten_lt hv, lin_of_ten_lt (hv.trans_le h)]
  exact Config.chip.pow_admitted.mono _ _ _ (powArg_powBase hv) (powArg_powBase (hv.trans_le h))
    (powBase_mono h)

/-- On the linear branch `lin` is far below one half. -/
theorem lin_le_of_le_ten {v : Byte} (h : v.toNat ≤ 10) : lin chip v ≤ 511 / 1024 := by
  have hend : divF chip.fmt (unitByte chip.fmt 10) (k12_92 chip.fmt) ≤ 511 / 1024 := by
    cases chip.fmt <;> decide +kernel
  obtain ⟨-, h12, -⟩ := constants_nonneg chip.fmt
  rw [lin_of_le_ten h]
  exact (divF_le_divF h12 (unitByte_mono h)).trans hend

/-- The mixture of three equal channels at the two bounds. -/
theorem lumMix_half (f : Fmt) :
    lumMix f (511 / 1024) (511 / 1024) (511 / 1024) ≤ 1 / 2 ∧
      1 / 2 < lumMix f (513 / 1024) (513 / 1024) (513 / 1024) := by
  cases f <;> decide +kernel

/-- Settles O55: between the bytes 187 and 188 the linear channel passes from 511/1024 to 513/1024,
for every faithful POW, and it is monotone elsewhere. -/
theorem midGrayByteIs188 : Obligations.MidGrayByteIs188 := by
  intro v
  obtain ⟨hlow, hhigh⟩ := lumMix_half chip.fmt
  rw [lumOf_eq]
  constructor
  · intro h
    by_contra hv
    have hlin : lin chip v ≤ 511 / 1024 := by
      rcases Nat.lt_or_ge 10 v.toNat with h10 | h10
      · refine (lin_mono (v' := 187) h10 ?_).trans lin_187_le
        rw [show (187 : Byte).toNat = 187 from rfl]
        omega
      · exact lin_le_of_le_ten h10
    exact absurd h (not_lt.mpr ((lumMix_mono hlin hlin hlin).trans hlow))
  · intro hv
    have hlin := le_lin_188.trans (lin_mono (v := 188) (by decide) hv)
    exact hhigh.trans_le (lumMix_mono hlin hlin hlin)

/-- Settles O56. -/
theorem binaryLuminancesEncodeToTheirBytes : Obligations.BinaryLuminancesEncodeToTheirBytes := by
  refine ⟨grayByte_zero chip, grayByte_one chip_pow_one, gam_zero chip, ?_⟩
  rw [gam_one chip_pow_one]
  cases chip.fmt <;> decide +kernel

end Sys2Proof.Machine

/-! ## Images of black and white (spec/42_dither_pointwise.md R151, spec/43_floyd_steinberg.md R177, R179) -/

namespace Sys2Proof.Machine

variable {p : Params}

/-! ### A pixel of OUT by address -/

/-- The byte of a pixel of OUT at an address of that pixel (R52). -/
theorem OutPixelIs.readCell_eq {t : State} {j : Nat} {g al : Byte} (h : OutPixelIs t j g al) {a : Nat}
    (ha : a / 4 = j) : readCell t.outBuf a = some (if a % 4 = 3 then al else g) := by
  obtain ⟨h0, h1, h2, h3⟩ := h
  have hchan : a = byteAddr j (a % 4) := by unfold byteAddr; omega
  have hcases : a % 4 = 0 ∨ a % 4 = 1 ∨ a % 4 = 2 ∨ a % 4 = 3 := by omega
  rcases hcases with hc | hc | hc | hc <;> rw [hc] at hchan ⊢ <;> rw [hchan]
  · exact h0
  · exact h1
  · exact h2
  · exact h3

/-- A pure pixel has three equal color bytes, and its luminance is 0 or 1 accordingly (R108). -/
theorem pure_cases {s : State} {j : Nat} (h : PureBlackOrWhite chip s j) :
    ∃ v : Byte, (∀ c, c < 3 → inByte chip s (byteAddr j c) = v) ∧
      ((pixelLum chip s j = 0 ∧ v = 0) ∨ (pixelLum chip s j = 1 ∧ v = 255)) := by
  have colors : ∀ {v : Byte}, inByte chip s (byteAddr j 0) = v → inByte chip s (byteAddr j 1) = v →
      inByte chip s (byteAddr j 2) = v → ∀ c, c < 3 → inByte chip s (byteAddr j c) = v :=
    fun h0 h1 h2 c hc => match c, hc with
      | 0, _ => h0
      | 1, _ => h1
      | 2, _ => h2
  rcases h with ⟨h0, h1, h2⟩ | ⟨h0, h1, h2⟩
  · exact ⟨0, colors h0 h1 h2, Or.inl ⟨by rw [pixelLum, h0, h1, h2, lumOf_black], rfl⟩⟩
  · exact ⟨255, colors h0 h1 h2, Or.inr ⟨by rw [pixelLum, h0, h1, h2, lumOf_white], rfl⟩⟩

/-- A pure pixel that is compared with a threshold in [0, 1) comes out unchanged. -/
theorem readCell_of_pure {s t : State} {j : Nat} {level : Rat} (hpure : PureBlackOrWhite chip s j)
    (h0 : 0 ≤ level) (h1 : level < 1)
    (h : OutPixelIs t j (blackOrWhite (pixelLum chip s j > level)) (pixelAlpha chip s j)) {a : Nat}
    (ha : a / 4 = j) : readCell t.outBuf a = some (inByte chip s a) := by
  obtain ⟨v, hcolor, hlum⟩ := pure_cases hpure
  have hgray : blackOrWhite (pixelLum chip s j > level) = v := by
    unfold blackOrWhite
    rcases hlum with ⟨hl, hv⟩ | ⟨hl, hv⟩ <;> rw [hl, hv]
    · exact if_neg (not_lt.mpr h0)
    · exact if_pos h1
  rw [hgray] at h
  have hchan : a = byteAddr j (a % 4) := by unfold byteAddr; omega
  rw [h.readCell_eq ha]
  split
  · next h3 => rw [pixelAlpha, ← h3, ← hchan]
  · next h3 => rw [← hcolor (a % 4) (by omega), ← hchan]

/-! ### No error arises -/

/-- The luminances 0 and 1 leave no error. -/
theorem diffusionError_of_binary {old : FmtVal} (h : old = 0 ∨ old = 1) :
    diffusionError p old = 0 := by
  rw [diffusionError_eq]
  rcases h with rfl | rfl
  · rw [if_neg (by norm_num), subF, sub_zero, isFmt_zero]
  · rw [if_pos (by norm_num), subF, sub_self, isFmt_zero]

/-- A share of no error is nothing. -/
theorem wt_zero (k : Nat) : wt p 0 k = 0 := by
  rw [wt, mulF_zero_left, divF, zero_div, isFmt_zero]

/-- A pixel that receives only shares of no error keeps its luminance. -/
theorem receivedLum_of_no_error {w i : Nat} {d : FmtVal} (hd : IsFmt p.fmt d) :
    receivedLum p w d (fun _ => 0) i = d := by
  have hadd : addF p.fmt d 0 = d := by rw [addF, add_zero, hd]
  simp only [receivedLum, wt_zero, hadd, ite_self]

/-- On a binary image the recurrence of R176 changes nothing. -/
theorem diffusedLum_of_binary {w : Nat} (hw : 0 < w) {d : Nat → FmtVal} {i : Nat}
    (h : ∀ j, j ≤ i → d j = 0 ∨ d j = 1) : diffusedLum p w d i = d i := by
  induction i using Nat.strong_induction_on with
  | _ i ih =>
    have hnone : ∀ k, k < i → diffusionError p (diffusedLum p w d k) = 0 := fun k hk => by
      rw [ih k hk fun j hj => h j (by omega)]
      exact diffusionError_of_binary (h k hk.le)
    have hfmt : IsFmt p.fmt (d i) := by
      rcases h i le_rfl with e | e <;> rw [e]
      · exact isFmt_zero _
      · exact isFmt_one _
    rw [diffusedLum_eq hw, receivedLum_congr hw hnone, receivedLum_of_no_error hfmt]

/-- Settles O22: no pixel of such an image has an error, so each is compared with 1/2 as it is. -/
theorem floydSteinbergKeepsBlackAndWhiteImages :
    Obligations.FloydSteinbergKeepsBlackAndWhiteImages := by
  intro width nbytes s hg hs hpure
  obtain ⟨hw, h4, -⟩ := goodShape_pixels hg
  obtain ⟨t, e, h⟩ := exec_succeeds (i := .floydSteinberg width nbytes) s hg (by simp [Instr.tag])
  obtain ⟨-, hdone, -⟩ := h.ends
  refine ⟨t, e, hdone, fun a ha hwritten => ?_⟩
  have hj : a / 4 < nbytes / 4 := by omega
  have hbin : ∀ j, j ≤ a / 4 → pixelLum chip s j = 0 ∨ pixelLum chip s j = 1 := fun j hja => by
    obtain ⟨v, -, hl⟩ := pure_cases (hpure j (by omega))
    exact hl.imp And.left And.left
  have hpix := h.pixel hs (a / 4) hj (inputWritten_floydSteinberg.mpr hwritten)
  rw [resultLum, diffusedLum_of_binary hw hbin, grayByte_thr] at hpix
  exact readCell_of_pure (hpure _ hj) (by norm_num) (by norm_num) hpix rfl

/-- Settles O23: draws lie in [0, 1). -/
theorem whiteNoiseKeepsBlackAndWhiteImages : Obligations.WhiteNoiseKeepsBlackAndWhiteImages := by
  intro width nbytes s hg hs hpure
  obtain ⟨-, h4, -⟩ := goodShape_pixels hg
  obtain ⟨t, e, -, -, hyes, -⟩ := whiteNoiseThresholdsAgainstDraws width nbytes s hg hs
  refine ⟨t, e, fun hrng => ?_⟩
  obtain ⟨⟨-, hdone, -⟩, -, -, hpix, -⟩ := hyes hrng
  refine ⟨hdone, fun a ha hwritten => ?_⟩
  have hj : a / 4 < nbytes / 4 := by omega
  exact readCell_of_pure (hpure _ hj) (Config.chip.draw_nonneg _) (Config.chip.draw_lt_one _)
    (hpix (a / 4) hj hwritten) rfl

/-- Settles O24: pixel 0 has no neighbours in row 0 and column 0 to receive from. -/
theorem singlePixelFloydSteinbergIsQuantise : Obligations.SinglePixelFloydSteinbergIsQuantise := by
  intro s hs
  have hg : GoodShape chip 1 4 :=
    ⟨by decide, by decide, by decide, by decide, by decide, Config.chip.maxPix_pos⟩
  obtain ⟨t, et, ht⟩ := exec_succeeds (i := .floydSteinberg 1 4) s hg (by simp [Instr.tag])
  obtain ⟨u, eu, hu⟩ := exec_succeeds (i := .quantise 1 4) s hg (by simp [Instr.tag])
  obtain ⟨-, htdone, -⟩ := ht.ends
  obtain ⟨-, hudone, -⟩ := hu.ends
  refine ⟨t, u, et, eu, htdone, hudone, fun a ha => ?_⟩
  rcases Nat.lt_or_ge a 4 with h4 | h4
  · have hwritten := ha.resolve_left (by omega)
    have hzero : ∀ j, j ≤ 0 → ColorWritten s j := fun j hj => Nat.le_zero.mp hj ▸ hwritten
    have hpt := ht.pixel hs 0 (by decide) (inputWritten_floydSteinberg.mpr hzero)
    have hpu := hu.pixel hs 0 (by decide)
      ((inputWritten_iff_of_ne (by simp [Instr.tag])).mpr hwritten)
    have hsame : diffusedLum chip 1 (pixelLum chip s) 0 = pixelLum chip s 0 := by
      rw [diffusedLum_eq Nat.one_pos]
      simp [receivedLum, colOf, rowOf]
    rw [resultLum, hsame] at hpt
    have h0 : a / 4 = 0 := by omega
    exact (hpt.readCell_eq h0).trans (hpu.readCell_eq h0).symm
  · exact (ht.above a h4).trans (hu.above a h4).symm

end Sys2Proof.Machine

/-! ## Two runs of one command -/

namespace Sys2Proof.Machine

variable {p : Params}

/-! ### What a result depends on -/

/-- The result of a pixel depends on its own luminance, under FloydSteinberg on the earlier ones too,
and under WhiteNoise on the draws (R38, R65, R176). -/
theorem resultLum_congr {i : Instr} {n n' : Nat} {d d' : Nat → FmtVal} {k : Nat} (hw : 0 < i.width)
    (hn : i.tag = 0b010#3 → n = n')
    (hd : ∀ j, j = k ∨ (i.tag = 0b111#3 ∧ j ≤ k) → d j = d' j) :
    resultLum p i n d k = resultLum p i n' d' k := by
  have hk := hd k (Or.inl rfl)
  cases i with
  | grayscale => exact hk
  | quantise => rw [resultLum, resultLum, hk]
  | whiteNoise => rw [resultLum, resultLum, hk, hn rfl]
  | bayer0 => rw [resultLum, resultLum, hk]
  | bayer1 => rw [resultLum, resultLum, hk]
  | bayer2 => rw [resultLum, resultLum, hk]
  | bayer3 => rw [resultLum, resultLum, hk]
  | floydSteinberg width nbytes =>
    rw [resultLum, resultLum, diffusedLum_congr (w := width) hw fun j hj => hd j (Or.inr ⟨rfl, hj⟩)]

/-- The color of every pixel that a specified result depends on has been written. -/
theorem colorWritten_of_inputWritten {i : Instr} {s : State} {k j : Nat} (h : InputWritten i s k)
    (hj : j = k ∨ (i.tag = 0b111#3 ∧ j ≤ k)) : ColorWritten s j := by
  unfold InputWritten at h
  split at h
  · exact h j (by omega)
  · next ht =>
    rcases hj with rfl | ⟨ht', -⟩
    · exact h
    · exact absurd ht' ht

/-- The same command with the same answers of the random source has the same outcome. -/
theorem exec_same_outcome {i : Instr} {s₁ s₂ t₁ t₂ : State} (hwf : i.wellFormed = true)
    (hrng : i.tag = 0b010#3 → s₁.rngAsks = s₂.rngAsks) (e₁ : exec i s₁ = .next t₁)
    (e₂ : exec i s₂ = .next t₂) :
    (∃ f n, FailsWith f s₁ t₁ ∧ FailsWith f s₂ t₂ ∧ t₁.rngAsks = s₁.rngAsks + n ∧
      t₂.rngAsks = s₂.rngAsks + n) ∨
    (GoodShape chip i.width i.nbytes ∧ Succeeds i s₁ t₁ ∧ Succeeds i s₂ t₂) := by
  rcases exec_outcome s₁ hwf with
    ⟨hb, t, e, h, hn⟩ | ⟨hg, ht, hno, t, e, h, hn⟩ | ⟨hg, hyes, t, e, h⟩ <;>
    obtain rfl := Host.Outcome.next.inj (e.symm.trans e₁) <;>
  rcases exec_outcome s₂ hwf with
    ⟨hb', t', e', h', hn'⟩ | ⟨hg', ht', hno', t', e', h', hn'⟩ | ⟨hg', hyes', t', e', h'⟩ <;>
    obtain rfl := Host.Outcome.next.inj (e'.symm.trans e₂)
  · exact Or.inl ⟨_, 0, h, h', hn, hn'⟩
  · exact absurd hg' hb
  · exact absurd hg' hb
  · exact absurd hg hb'
  · exact Or.inl ⟨_, 1, h, h', hn, hn'⟩
  · rw [hrng ht, hyes' ht] at hno; cases hno
  · exact absurd hg hb'
  · rw [← hrng ht', hyes ht'] at hno'; cases hno'
  · exact Or.inr ⟨hg, h, h'⟩

/-- Two runs with the same outcome report it alike. -/
theorem flags_eq_of_same_outcome {i : Instr} {s₁ s₂ t₁ t₂ : State}
    (h : (∃ f n, FailsWith f s₁ t₁ ∧ FailsWith f s₂ t₂ ∧ t₁.rngAsks = s₁.rngAsks + n ∧
      t₂.rngAsks = s₂.rngAsks + n) ∨
      (GoodShape chip i.width i.nbytes ∧ Succeeds i s₁ t₁ ∧ Succeeds i s₂ t₂)) :
    t₁.done = t₂.done ∧ t₁.err = t₂.err ∧ t₁.errcode = t₂.errcode := by
  rcases h with ⟨f, n, h₁, h₂, -⟩ | ⟨-, h₁, h₂⟩ <;>
    obtain ⟨-, d₁, r₁, c₁, -⟩ := h₁.ends <;> obtain ⟨-, d₂, r₂, c₂, -⟩ := h₂.ends <;>
    exact ⟨d₁.trans d₂.symm, r₁.trans r₂.symm, c₁.trans c₂.symm⟩

/-- Two runs leave the same gray byte in a specified pixel if they see the same luminances there. -/
theorem Succeeds.same_gray {i : Instr} {s₁ s₂ t₁ t₂ : State} (h₁ : Succeeds i s₁ t₁)
    (h₂ : Succeeds i s₂ t₂) (hg : GoodShape chip i.width i.nbytes) (hs₁ : s₁.disturbed = false)
    (hs₂ : s₂.disturbed = false) (hdraws : i.tag = 0b010#3 → s₁.draws = s₂.draws) {k : Nat}
    (hk : k < i.nbytes / 4) (hw₁ : InputWritten i s₁ k) (hw₂ : InputWritten i s₂ k)
    (hlum : ∀ j, j = k ∨ (i.tag = 0b111#3 ∧ j ≤ k) → pixelLum chip s₁ j = pixelLum chip s₂ j) :
    ∃ g, OutPixelIs t₁ k g (pixelAlpha chip s₁ k) ∧ OutPixelIs t₂ k g (pixelAlpha chip s₂ k) := by
  obtain ⟨hw, -⟩ := goodShape_pixels hg
  refine ⟨_, h₁.pixel hs₁ k hk hw₁, ?_⟩
  rw [resultLum_congr hw hdraws hlum]
  exact h₂.pixel hs₂ k hk hw₂

/-- The luminance of a pixel whose bytes read the same. -/
theorem pixelLum_congr {s₁ s₂ : State} {j : Nat}
    (h : ∀ c, c < 3 → inByte p s₁ (byteAddr j c) = inByte p s₂ (byteAddr j c)) :
    pixelLum p s₁ j = pixelLum p s₂ j := by
  rw [pixelLum, pixelLum, h 0 (by decide), h 1 (by decide), h 2 (by decide)]

/-- Settles O17: the outcome depends on the shape and the random source, a specified pixel on the
bytes of IN that it reads. -/
theorem resultDependsOnInputsOnly : Obligations.ResultDependsOnInputsOnly := by
  intro i s₁ s₂ t₁ t₂ hwf hs₁ hs₂ hin hasks hdraws e₁ e₂
  have hsame := exec_same_outcome hwf (fun _ => hasks) e₁ e₂
  obtain ⟨hd, hr, hc⟩ := flags_eq_of_same_outcome hsame
  refine ⟨hd, hr, hc, ?_⟩
  rcases hsame with ⟨f, n, h₁, h₂, hn₁, hn₂⟩ | ⟨hg, h₁, h₂⟩
  · obtain ⟨-, hdone, -⟩ := h₁.ends
    exact ⟨by rw [hn₁, hn₂, hasks], by rw [h₁.draws, h₂.draws, hdraws],
      fun h => absurd (hdone.symm.trans h) (by decide)⟩
  · refine ⟨by rw [h₁.asks, h₂.asks, hasks], by rw [h₁.draws, h₂.draws, hdraws],
      fun _ a ha hw₁ hw₂ => ?_⟩
    obtain ⟨-, h4, -⟩ := goodShape_pixels hg
    have hlum : ∀ j, j = a / 4 ∨ (i.tag = 0b111#3 ∧ j ≤ a / 4) →
        pixelLum chip s₁ j = pixelLum chip s₂ j := fun j hj =>
      pixelLum_congr fun c hc => hin _ (by unfold byteAddr; omega)
    obtain ⟨g, p₁, p₂⟩ := h₁.same_gray h₂ hg hs₁ hs₂ (fun _ => hdraws) (by omega) hw₁ hw₂ hlum
    have halpha : pixelAlpha chip s₁ (a / 4) = pixelAlpha chip s₂ (a / 4) :=
      hin _ (by unfold byteAddr; omega)
    rw [p₁.readCell_eq rfl, p₂.readCell_eq rfl, halpha]

/-- Settles O18: colors are written in both images or in neither, and a written byte reads as what
was written. -/
theorem alphaInfluencesOnlyItsOwnOutputAlpha : Obligations.AlphaInfluencesOnlyItsOwnOutputAlpha := by
  intro i s₁ s₂ t₁ t₂ hwf hs₁ hs₂ hin hasks hdraws e₁ e₂
  have hsame := exec_same_outcome hwf (fun _ => hasks) e₁ e₂
  obtain ⟨hd, -⟩ := flags_eq_of_same_outcome hsame
  refine ⟨hd, fun hdone k hk hw₁ => ?_⟩
  rcases hsame with ⟨f, n, h₁, -⟩ | ⟨hg, h₁, h₂⟩
  · obtain ⟨-, hfail, -⟩ := h₁.ends
    exact absurd (hfail.symm.trans hdone) (by decide)
  have hwritten : ∀ j, j ≤ k → ColorWritten s₁ j → ColorWritten s₂ j := fun j hj h c hc => by
    rw [← hin j c (by omega) hc]; exact h c hc
  have hw₂ : InputWritten i s₂ k := by
    unfold InputWritten at hw₁ ⊢
    split
    · next ht => rw [if_pos ht] at hw₁; exact fun j hj => hwritten j hj (hw₁ j hj)
    · next ht => rw [if_neg ht] at hw₁; exact hwritten k le_rfl hw₁
  have hlum : ∀ j, j = k ∨ (i.tag = 0b111#3 ∧ j ≤ k) →
      pixelLum chip s₁ j = pixelLum chip s₂ j := fun j hj => pixelLum_congr fun c hc => by
    obtain ⟨v, hv⟩ := colorWritten_of_inputWritten hw₁ hj c hc
    rw [inByte, inByte, ← hin j c (by omega) hc, hv, Option.getD_some, Option.getD_some]
  obtain ⟨g, p₁, p₂⟩ := h₁.same_gray h₂ hg hs₁ hs₂ (fun _ => hdraws) hk hw₁ hw₂ hlum
  have hread : ∀ c, c < 4 → (c = 3 → pixelAlpha chip s₁ k = pixelAlpha chip s₂ k) →
      readCell t₁.outBuf (byteAddr k c) = readCell t₂.outBuf (byteAddr k c) := fun c hc ha => by
    obtain ⟨hpix, hchan⟩ := byteAddr_div_mod (j := k) hc
    rw [p₁.readCell_eq hpix, p₂.readCell_eq hpix, hchan]
    split
    · rw [ha ‹_›]
    · rfl
  exact ⟨fun c hc => hread c (by omega) fun h => by omega, fun ha => hread 3 (by decide) fun _ => ha⟩

/-- Settles O20: the first run leaves IN and its operands as they were. -/
theorem repeatedCommandGivesTheSameOutput : Obligations.RepeatedCommandGivesTheSameOutput := by
  intro i s t u hwf hs hne e₁ e₂
  have htag := tag_ne_two hne
  have hsame := exec_same_outcome hwf (fun h => absurd h htag) e₁ e₂
  obtain ⟨hd, hr, hc⟩ := flags_eq_of_same_outcome hsame
  refine ⟨hd.symm, hr.symm, hc.symm, fun a ha => ?_⟩
  rcases hsame with ⟨f, n, -, h₂, -⟩ | ⟨hg, h₁, h₂⟩
  · rw [h₂.out]
  · obtain ⟨-, hdone, -⟩ := h₁.ends
    rcases Nat.lt_or_ge a i.nbytes with hlt | hge
    · have hw₁ : InputWritten i s (a / 4) :=
        (ha.resolve_left fun h => absurd (hdone.symm.trans h) (by decide)).resolve_left (by omega)
      obtain ⟨-, -, -, hbuf, -, -, hera⟩ := h₁.frame
      have hin : ∀ b, inByte chip t b = inByte chip s b := fun b => by rw [inByte, inByte, hbuf, hera]
      have hw₂ : InputWritten i t (a / 4) := by
        unfold InputWritten ColorWritten at hw₁ ⊢
        rw [hbuf]; exact hw₁
      obtain ⟨-, h4, -⟩ := goodShape_pixels hg
      obtain ⟨g, p₁, p₂⟩ := h₁.same_gray h₂ hg hs h₁.undisturbed (fun h => absurd h htag) (by omega)
        hw₁ hw₂ fun j _ => pixelLum_congr fun c _ => (hin _).symm
      rw [p₁.readCell_eq rfl, p₂.readCell_eq rfl, pixelAlpha, pixelAlpha, hin]
    · exact h₂.above a hge

end Sys2Proof.Machine

/-! ## A tile of one luminance under a Bayer command (R162) -/

namespace Sys2Proof.Machine

/-- The matrix position that pixel `(r, k)` of an aligned tile is compared with: its column `k` selects
the matrix row (R155). -/
theorem bayerLevel_tile {n width row col r k : Nat} (hr : r < 2 ^ (n + 1)) (hk : k < 2 ^ (n + 1))
    (hcol : (col + 1) * 2 ^ (n + 1) ≤ width) :
    bayerLevel n width ((row * 2 ^ (n + 1) + r) * width + (col * 2 ^ (n + 1) + k)) =
      (bayerEntry n k r : Rat) / 4 ^ (n + 1) := by
  have hx : col * 2 ^ (n + 1) + k < width := by
    have : (col + 1) * 2 ^ (n + 1) = col * 2 ^ (n + 1) + 2 ^ (n + 1) := by ring
    omega
  obtain ⟨-, hmodk⟩ := rowMajor_div_mod (r := col) hk
  obtain ⟨-, hmodr⟩ := rowMajor_div_mod (r := row) hr
  rw [bayerLevel, colOf_rowMajor _ hx, rowOf_rowMajor _ hx, sideOf, hmodk, hmodr]

/-- Counting the thresholds below `x` does not depend on which index is the row. -/
theorem card_thresholds_swap (n : Nat) {x : Rat} (h0 : 0 ≤ x) (h1 : x ≤ 1) :
    ((matrixGrid n).filter (fun rc => (bayerEntry n rc.2 rc.1 : Rat) / 4 ^ (n + 1) < x)).card =
      ⌈x * 4 ^ (n + 1)⌉₊ := by
  rw [← thresholdsBelowCountIsCeil n x h0 h1]
  have swapped : ∀ rc : Nat × Nat,
      rc.swap ∈ (matrixGrid n).filter (fun rc => (bayerEntry n rc.1 rc.2 : Rat) / 4 ^ (n + 1) < x) ↔
        rc ∈ (matrixGrid n).filter (fun rc => (bayerEntry n rc.2 rc.1 : Rat) / 4 ^ (n + 1) < x) :=
    fun rc => by
      rw [Finset.mem_filter, Finset.mem_filter, mem_matrixGrid, mem_matrixGrid]
      exact and_congr_left fun _ => and_comm
  exact Finset.card_nbij' Prod.swap Prod.swap (fun rc h => (swapped rc).mpr h)
    (fun rc h => (swapped rc.swap).mp h) (fun _ _ => rfl) fun _ _ => rfl

/-- Settles O48: in the tile the command compares `x` with every entry of the matrix once. -/
theorem constantTileHoldsCeilWhitePixels : Obligations.ConstantTileHoldsCeilWhitePixels := by
  intro width nbytes s hg hs c hc
  obtain ⟨t, e, ⟨-, hdone, -⟩, -, -, -, hpix, -⟩ := exec_bayer_of_mem (i := c.1) (n := c.2) hg hs hc
  refine ⟨t, e, hdone, ?_⟩
  intro x tileCol tileRow m pixel hcol hrow htile
  obtain ⟨hw, -, hN, -⟩ := goodShape_pixels hg
  have hm : 0 < m := Nat.two_pow_pos _
  obtain ⟨-, hx⟩ := htile 0 0 hm hm
  obtain ⟨h0, h1⟩ : 0 ≤ x ∧ x ≤ 1 := hx ▸ lumOf_unit _ _ _
  rw [← card_thresholds_swap c.2 h0 h1]
  refine congrArg Finset.card (Finset.filter_congr fun rc hrc => ?_)
  obtain ⟨hr, hk⟩ := mem_matrixGrid.mp hrc
  obtain ⟨hwritten, hlum⟩ := htile rc.1 rc.2 hr hk
  have hlt : pixel rc < nbytes / 4 := by
    have hcolm : (tileCol + 1) * m = tileCol * m + m := by ring
    have hrowm : (tileRow + 1) * m = tileRow * m + m := by ring
    rw [hN]
    exact rowMajor_lt_mul (by omega) (by omega)
  obtain ⟨p0, p1, p2, -⟩ := hpix (pixel rc) hlt hwritten
  have hlevel : bayerLevel c.2 width (pixel rc) = (bayerEntry c.2 rc.2 rc.1 : Rat) / 4 ^ (c.2 + 1) :=
    bayerLevel_tile hr hk hcol
  rw [p0, p1, p2, hlum, hlevel, and_self, and_self, Option.some_inj]
  unfold blackOrWhite
  split
  · exact iff_of_true rfl ‹_›
  · exact iff_of_false (by decide) ‹_›

end Sys2Proof.Machine

/-! ## The order of pixels (spec/20_memory.md R65) -/

namespace Sys2Proof.Machine

variable {p : Params}

/-- Writes to different places commute on a canonical list. -/
theorem writeCell_comm {α : Type} {l : List (Nat × α)} (h : CellsWf l) {a b : Nat} (hab : a ≠ b)
    (u v : α) : writeCell (writeCell l b u) a v = writeCell (writeCell l a v) b u := by
  refine cells_ext (writeCell_wf _ _ (writeCell_wf _ _ h)) (writeCell_wf _ _ (writeCell_wf _ _ h))
    fun c => ?_
  simp only [readCell_writeCell]
  by_cases hca : c = a
  · rw [if_pos hca, if_pos hca, if_neg (hca.trans_ne hab)]
  · rw [if_neg hca, if_neg hca]

/-- A write of one entry of LUM leaves what another holds. -/
theorem lumAt_setLum_other {i j : Nat} (h : i ≠ j) (v : FmtVal) (s : State) :
    lumAt p (setLum j v s) i = lumAt p s i :=
  lumAt_congr rfl (readCell_writeCell_other _ _ h)

/-- Two kernels that replace a pixel's luminance by a function of it and of fields other than LUM
commute. -/
theorem setLum_comm {i j : Nat} (hij : i ≠ j) (f g : FmtVal → FmtVal) {s : State}
    (h : CellsWf s.lum) :
    setLum i (f (lumAt p (setLum j (g (lumAt p s j)) s) i)) (setLum j (g (lumAt p s j)) s) =
      setLum j (g (lumAt p (setLum i (f (lumAt p s i)) s) j)) (setLum i (f (lumAt p s i)) s) := by
  rw [lumAt_setLum_other hij, lumAt_setLum_other hij.symm]
  exact congrArg (fun l => { s with lum := l }) (writeCell_comm h hij _ _)

theorem quantisePixel_comm {i j : Nat} (hij : i ≠ j) {s : State} (h : CellsWf s.lum) :
    quantisePixel p i (quantisePixel p j s) = quantisePixel p j (quantisePixel p i s) :=
  setLum_comm hij (fun x => thr x (k0_5 p.fmt)) (fun x => thr x (k0_5 p.fmt)) h

/-- The matrix threshold is not touched by the kernel. -/
theorem bayerThreshold_setLum (n i j : Nat) (v : FmtVal) (s : State) :
    bayerThreshold p n i (setLum j v s) = bayerThreshold p n i s := rfl

theorem bayerPixel_comm (n : Nat) {i j : Nat} (hij : i ≠ j) {s : State} (h : CellsWf s.lum) :
    bayerPixel p n i (bayerPixel p n j s) = bayerPixel p n j (bayerPixel p n i s) := by
  simp only [bayerPixel, bayerThreshold_setLum]
  exact setLum_comm hij (fun x => thr x (bayerThreshold p n i s))
    (fun x => thr x (bayerThreshold p n j s)) h

theorem decodePixel_comm {i j : Nat} (hij : i ≠ j) {s : State} (hl : CellsWf s.lum)
    (ha : CellsWf s.alpha) :
    decodePixel p i (decodePixel p j s) = decodePixel p j (decodePixel p i s) := by
  have hone : ∀ i (t : State), decodePixel p i t =
      { t with
        lum := writeCell t.lum i (pixelLum p t i)
        alpha := writeCell t.alpha i (pixelAlpha p t i) } :=
    fun _ _ => rfl
  have hin : ∀ i l a, pixelLum p { s with lum := l, alpha := a } i = pixelLum p s i ∧
      pixelAlpha p { s with lum := l, alpha := a } i = pixelAlpha p s i := fun _ _ _ => ⟨rfl, rfl⟩
  simp only [hone, hin, writeCell_comm hl hij, writeCell_comm ha hij]

/-- ENCODE keeps OUT canonical. -/
theorem encodePixel_wf {s : State} (h : CellsWf s.outBuf) (i : Nat) :
    CellsWf (encodePixel p i s).outBuf :=
  writeCell_wf _ _ (writeCell_wf _ _ (writeCell_wf _ _ (writeCell_wf _ _ h)))

theorem encodePixel_comm {i j : Nat} (hij : i ≠ j) {s : State} (h : CellsWf s.outBuf) :
    encodePixel p i (encodePixel p j s) = encodePixel p j (encodePixel p i s) := by
  have hread : ∀ i j a, readCell (encodePixel p i (encodePixel p j s)).outBuf a =
      if 4 * i ≤ a ∧ a < 4 * i + 4 then some (encodedByte p s a)
      else if 4 * j ≤ a ∧ a < 4 * j + 4 then some (encodedByte p s a)
      else readCell s.outBuf a := fun i j a => by
    obtain ⟨o, e, ho⟩ := encodePixel_spec (p := p) j s
    obtain ⟨o', e', ho'⟩ := encodePixel_spec (p := p) i { s with outBuf := o }
    rw [e, e']
    exact (ho' a).trans (by rw [← ho a]; rfl)
  have hout : (encodePixel p i (encodePixel p j s)).outBuf =
      (encodePixel p j (encodePixel p i s)).outBuf := by
    refine cells_ext (encodePixel_wf (encodePixel_wf h j) i) (encodePixel_wf (encodePixel_wf h i) j)
      fun a => ?_
    rw [hread, hread]
    by_cases hi : 4 * i ≤ a ∧ a < 4 * i + 4
    · rw [if_pos hi, if_pos hi, if_neg (by omega)]
    · rw [if_neg hi, if_neg hi]
  have hframe : ∀ i j, encodePixel p i (encodePixel p j s) =
      { s with outBuf := (encodePixel p i (encodePixel p j s)).outBuf } := fun i j => by
    obtain ⟨o, e, -⟩ := encodePixel_spec (p := p) j s
    obtain ⟨o', e', -⟩ := encodePixel_spec (p := p) i { s with outBuf := o }
    rw [e, e']
  rw [hframe i j, hout, ← hframe j i]

/-- Settles O51. -/
theorem pointwiseWorkCommutes : Obligations.PointwiseWorkCommutes := by
  rintro s i j n ⟨⟨hl, -⟩, ⟨ha, -⟩, -, -, ⟨ho, -⟩⟩ hij
  exact ⟨decodePixel_comm hij hl ha, quantisePixel_comm hij hl, bayerPixel_comm n hij hl,
    encodePixel_comm hij ho⟩

end Sys2Proof.Machine

/-! ## The sequencer one transition at a time (spec/10_state.md R31) -/

namespace Sys2Proof.Machine

variable {p : Params}

/-! ### No phase reads `IDX` but to run its loop -/

/-- The state with `IDX` at another value. -/
def setIdx (x : BitVec 30) (s : State) : State := { s with idx := x }

@[simp] theorem setIdx_lat (x : BitVec 30) (s : State) : (setIdx x s).lat = s.lat := rfl

/-- A loop body that does not look at `IDX`. -/
def IgnoresIdx (f : Nat → State → State) : Prop :=
  ∀ i x s, f i (setIdx x s) = setIdx x (f i s)

theorem IgnoresIdx.forRange {f : Nat → State → State} (hf : IgnoresIdx f) (count start : Nat)
    (x : BitVec 30) (s : State) :
    forRange f count start (setIdx x s) = setIdx x (forRange f count start s) := by
  induction count generalizing start s with
  | zero => rfl
  | succ n ih => rw [forRange_succ, forRange_succ, hf, ih]

theorem ignoresIdx_decodePixel : IgnoresIdx (decodePixel p) := fun _ _ _ => rfl
theorem ignoresIdx_buildEntry (n : Nat) : IgnoresIdx (buildEntry n) := fun _ _ _ => rfl
theorem ignoresIdx_encodePixel : IgnoresIdx (encodePixel p) := fun _ _ _ => rfl

theorem addLumIf_setIdx (c : Bool) (j : Nat) (v : FmtVal) (x : BitVec 30) (s : State) :
    addLumIf p c j v (setIdx x s) = setIdx x (addLumIf p c j v s) := by
  cases c <;> rfl

theorem lumAt_setIdx (x : BitVec 30) (s : State) (i : Nat) :
    lumAt p (setIdx x s) i = lumAt p s i := rfl

theorem setLum_setIdx (i : Nat) (v : FmtVal) (x : BitVec 30) (s : State) :
    setLum i v (setIdx x s) = setIdx x (setLum i v s) := rfl

theorem diffuse_setIdx (i : Nat) (e : FmtVal) (x : BitVec 30) (s : State) :
    diffuse p i e (setIdx x s) = setIdx x (diffuse p i e s) := by
  simp only [diffuse, addLumIf_setIdx]
  rfl

theorem ignoresIdx_floydSteinbergPixel : IgnoresIdx (floydSteinbergPixel p) := fun i x s => by
  simp only [floydSteinbergPixel, lumAt_setIdx, setLum_setIdx, diffuse_setIdx]

theorem ignoresIdx_kernelPixel (m : BitVec 3) : IgnoresIdx (kernelPixel p m) := by
  unfold kernelPixel
  split_ifs
  · exact fun _ _ _ => rfl
  · exact fun _ _ _ => rfl
  · exact fun _ _ _ => rfl
  · exact ignoresIdx_floydSteinbergPixel
  · exact fun _ _ _ => rfl

theorem endSuccess_setIdx (x : BitVec 30) (s : State) :
    endSuccess p (setIdx x s) = endSuccess p s := by
  have hbody : IgnoresIdx fun i t => if resultSpecified s i then t else freePixel p s.fresh i t :=
    fun i x t => by
      by_cases h : resultSpecified s i = true
      · simp only [if_pos h]
      · simp only [if_neg h]; rfl
  have hsettle : settleResult p (setIdx x s) = setIdx x (settleResult p s) :=
    congrArg (fun t : State => { t with fresh := s.fresh + 1 }) (hbody.forRange s.lat.n.toNat 0 x s)
  unfold endSuccess
  rw [hsettle]
  rfl

theorem endSuccess_phase (s : State) : (endSuccess p s).phase = .idle := by rw [endSuccess_eq]

@[simp] theorem setIdx_phase (x : BitVec 30) (s : State) : (setIdx x s).phase = s.phase := rfl

theorem encodePixel_lat (i : Nat) (s : State) : (encodePixel p i s).lat = s.lat := by
  simp only [encodePixel, setOut_lat]

theorem encodePixel_phase (i : Nat) (s : State) : (encodePixel p i s).phase = s.phase := by
  simp only [encodePixel, setOut_phase]

theorem encodePixel_idx (i : Nat) (s : State) : (encodePixel p i s).idx = s.idx := by
  simp only [encodePixel, setOut_idx]

/-! ### One turn of a loop and the rest of it -/

/-- The loop of a phase: the indices from `IDX` up to `limit`. -/
def loopTo (limit : Nat) (f : Nat → State → State) (s : State) : State :=
  forRange f (limit - s.idx.toNat) s.idx.toNat s

theorem pixelLoop_eq_loopTo (f : Nat → State → State) (s : State) :
    pixelLoop f s = loopTo s.lat.n.toNat f s := rfl

theorem buildPhase_eq_loopTo (n : Nat) (s : State) :
    buildPhase n s = loopTo (sideOf n * sideOf n) (buildEntry n) s := rfl

/-- Moving `IDX` on does not wrap below the limit of a phase. -/
theorem toNat_idx_succ {x : BitVec 30} {limit : Nat} (hlim : limit ≤ 2 ^ 30)
    (h : x.toNat + 1 < limit) : (x + 1).toNat = x.toNat + 1 := by
  rw [BitVec.toNat_add]
  exact Nat.mod_eq_of_lt (show x.toNat + 1 < 2 ^ 30 by omega)

/-- A loop that has not reached its end is its first turn and the loop from the next index. -/
theorem loopTo_of_lt {f : Nat → State → State} (hf : IgnoresIdx f) {limit : Nat} {s : State}
    (hlim : limit ≤ 2 ^ 30) (h : s.idx.toNat + 1 < limit) :
    loopTo limit f (setIdx (s.idx + 1) (f s.idx.toNat s)) =
      setIdx (s.idx + 1) (loopTo limit f s) := by
  have hidx := toNat_idx_succ hlim h
  unfold loopTo
  rw [show (setIdx (s.idx + 1) (f s.idx.toNat s)).idx = s.idx + 1 from rfl, hidx, hf.forRange,
    show limit - s.idx.toNat = limit - (s.idx.toNat + 1) + 1 by omega, forRange_succ]

/-- The last turn of a loop. -/
theorem loopTo_of_last {f : Nat → State → State} {limit : Nat} {s : State}
    (h : s.idx.toNat + 1 = limit) : loopTo limit f s = f s.idx.toNat s := by
  unfold loopTo
  rw [show limit - s.idx.toNat = 0 + 1 by omega, forRange_succ, forRange_zero]

/-- One transition inside a phase: where the phase goes on, the rest of its loop is the same; where it
ends, the loop ends too. `after` is what follows the loop; it does not look at `IDX`. -/
theorem resume_advance {f : Nat → State → State} (hf : IgnoresIdx f) {limit : Nat}
    {leave after : State → State} {s : State} (hlim : limit ≤ 2 ^ 30) (hidx : s.idx.toNat < limit)
    (hkeep : (f s.idx.toNat s).idx = s.idx)
    (hafter : ∀ x t, after (setIdx x t) = after t)
    (hgo : s.idx.toNat + 1 < limit →
      resume p (setIdx (s.idx + 1) (f s.idx.toNat s)) =
        after (loopTo limit f (setIdx (s.idx + 1) (f s.idx.toNat s))))
    (hleave : resume p (leave (f s.idx.toNat s)) = after (f s.idx.toNat s)) :
    resume p (advance limit leave (f s.idx.toNat s)) = after (loopTo limit f s) := by
  rcases advance_cases limit leave (f s.idx.toNat s) with ⟨h, e⟩ | ⟨h, e⟩ <;> rw [hkeep] at h
  · have hset : advance limit leave (f s.idx.toNat s) = setIdx (s.idx + 1) (f s.idx.toNat s) := by
      rw [e, hkeep]; rfl
    rw [hset, hgo h, loopTo_of_lt hf hlim h, hafter]
  · rw [e, hleave, loopTo_of_last (by omega)]

/-! ### What follows each phase -/

/-- What follows DECODE (R31). -/
def afterDecode (p : Params) (s : State) : State :=
  if isBayer s.lat.m then resumeBuild p (leaveDecode s) else resumeKernel p (leaveDecode s)

/-- What follows BUILD (R31). -/
def afterBuild (p : Params) (s : State) : State := resumeKernel p (enterPhase .kernel s)

/-- What follows KERNEL (R31). -/
def afterKernel (p : Params) (s : State) : State := encodeAndEnd p (enterPhase .encode s)

theorem resumeDecode_eq (s : State) : resumeDecode p s = afterDecode p (decodePhase p s) := by
  unfold resumeDecode afterDecode
  rw [decodePhase_lat]

theorem resume_of_decode {s : State} (h : s.phase = .decode) : resume p s = resumeDecode p s := by
  rw [resume, h]

theorem resume_of_build {s : State} (h : s.phase = .build) : resume p s = resumeBuild p s := by
  rw [resume, h]

theorem resume_of_kernel {s : State} (h : s.phase = .kernel) : resume p s = resumeKernel p s := by
  rw [resume, h]

theorem resume_of_encode {s : State} (h : s.phase = .encode) : resume p s = encodeAndEnd p s := by
  rw [resume, h]

theorem resume_of_idle {s : State} (h : s.phase = .idle) : resume p s = s := by
  rw [resume, h]

theorem resume_leaveDecode (s : State) : resume p (leaveDecode s) = afterDecode p s := by
  unfold afterDecode
  split
  · next h => exact resume_of_build (by rw [leaveDecode, if_pos h]; rfl)
  · next h => exact resume_of_kernel (by rw [leaveDecode, if_neg h]; rfl)

theorem kernelPixel_phase_idx (m : BitVec 3) (i : Nat) (s : State) :
    (kernelPixel p m i s).phase = s.phase ∧ (kernelPixel p m i s).idx = s.idx := by
  obtain ⟨l, e⟩ := kernelLoop_only (p := p) m 1 i s
  exact ⟨(congrArg State.phase e :), (congrArg State.idx e :)⟩

/-! ### Each phase -/

section Phases

variable {s : State}

theorem resume_seqStep_decode (hidx : s.idx.toNat < s.lat.n.toNat) (hphase : s.phase = .decode) :
    resume p (advance s.lat.n.toNat leaveDecode (decodePixel p s.idx.toNat s)) = resume p s := by
  rw [resume_of_decode hphase, resumeDecode_eq, decodePhase, pixelLoop_eq_loopTo]
  refine resume_advance ignoresIdx_decodePixel s.lat.n.isLt.le hidx rfl (fun _ _ => rfl) (fun _ => ?_)
    (resume_leaveDecode _)
  rw [resume_of_decode (by exact hphase), resumeDecode_eq]
  rfl

theorem side_mul_side_le {m : BitVec 3} (h : isBayer m = true) :
    sideOf (bayerOrder m) * sideOf (bayerOrder m) ≤ matCap := by
  revert h; revert m; decide

theorem resume_seqStep_build (hb : isBayer s.lat.m = true)
    (hidx : s.idx.toNat < sideOf (bayerOrder s.lat.m) * sideOf (bayerOrder s.lat.m))
    (hphase : s.phase = .build) :
    resume p (advance (sideOf (bayerOrder s.lat.m) * sideOf (bayerOrder s.lat.m)) (enterPhase .kernel)
      (buildEntry (bayerOrder s.lat.m) s.idx.toNat s)) = resume p s := by
  rw [resume_of_build hphase, resumeBuild, buildPhase_eq_loopTo]
  refine resume_advance (after := afterBuild p) (ignoresIdx_buildEntry _)
    ((side_mul_side_le hb).trans (by decide)) hidx rfl (fun _ _ => rfl) (fun _ => ?_)
    (resume_of_kernel rfl)
  rw [resume_of_build (by exact hphase)]
  rfl

/-- One transition of KERNEL after the question to the random source, if there is one. -/
theorem resume_advance_kernel (hidx : s.idx.toNat < s.lat.n.toNat) (hphase : s.phase = .kernel) :
    resume p (advance s.lat.n.toNat (enterPhase .encode)
      (kernelPixel p s.lat.m s.idx.toNat s)) = kernelAndEncode p (kernelPixel p s.lat.m) s := by
  obtain ⟨hp, hi⟩ := kernelPixel_phase_idx (p := p) s.lat.m s.idx.toNat s
  have hlat := kernelPixel_lat (p := p) s.lat.m s.idx.toNat s
  refine resume_advance (after := afterKernel p) (ignoresIdx_kernelPixel _) s.lat.n.isLt.le hidx hi
    (fun _ _ => rfl) (fun hlt => ?_) (resume_of_encode rfl)
  have hne : s.idx + 1 ≠ 0 := fun h0 => by
    have := toNat_idx_succ s.lat.n.isLt.le hlt
    rw [h0] at this
    exact absurd this (by simp)
  rw [resume_of_kernel (by exact hp.trans hphase), resumeKernel, startKernel, if_neg fun h => hne h.2]
  rw [kernelAndEncode, pixelLoop_eq_loopTo, setIdx_lat, hlat, afterKernel]

theorem resume_seqStep_kernel (hidx : s.idx.toNat < s.lat.n.toNat) (hphase : s.phase = .kernel) :
    resume p (startKernel p (fun s₁ => advance s₁.lat.n.toNat (enterPhase .encode)
      (kernelPixel p s₁.lat.m s₁.idx.toNat s₁)) s) = resume p s := by
  rw [resume_of_kernel hphase, resumeKernel]
  unfold startKernel
  split
  · rcases askRandomSource_cases p (fun s₁ => advance s₁.lat.n.toNat (enterPhase .encode)
      (kernelPixel p s₁.lat.m s₁.idx.toNat s₁)) s with ⟨h, e⟩ | ⟨h, e⟩ <;>
    rcases askRandomSource_cases p (fun s₁ => kernelAndEncode p (kernelPixel p s₁.lat.m) s₁) s with
      ⟨h', e'⟩ | ⟨h', e'⟩ <;> rw [e, e']
    · exact resume_advance_kernel (s := countAsk s) hidx hphase
    · exact absurd (h.symm.trans h') (by decide)
    · exact absurd (h.symm.trans h') (by decide)
    · exact resume_of_idle rfl
  · exact resume_advance_kernel hidx hphase

theorem resume_seqStep_encode (hidx : s.idx.toNat < s.lat.n.toNat) (hphase : s.phase = .encode) :
    resume p (advance s.lat.n.toNat (endSuccess p) (encodePixel p s.idx.toNat s)) = resume p s := by
  rw [resume_of_encode hphase, encodeAndEnd, pixelLoop_eq_loopTo]
  refine resume_advance (after := endSuccess p) ignoresIdx_encodePixel s.lat.n.isLt.le hidx
    (encodePixel_idx _ s) endSuccess_setIdx (fun _ => ?_) (resume_of_idle (endSuccess_phase _))
  rw [resume_of_encode (by rw [setIdx_phase, encodePixel_phase, hphase]), encodeAndEnd,
    pixelLoop_eq_loopTo, setIdx_lat, encodePixel_lat]

theorem resume_seqStep_check (hphase : s.phase = .check) :
    resume p (runCheck p id s) = resume p s := by
  have hs : resume p s = runCheck p (resumeDecode p) s := by rw [resume, hphase]
  rcases runCheck_cases p id s with ⟨h, e⟩ | ⟨h, e⟩ <;>
    rcases runCheck_cases p (resumeDecode p) s with ⟨h', e'⟩ | ⟨h', e'⟩ <;> rw [hs, e, e']
  · exact resume_of_decode rfl
  · exact absurd h h'
  · exact absurd h' h
  · exact resume_of_idle rfl

end Phases

/-- In IDLE or CHECK, or in a phase whose loop has not ended: the rest of a command after one
transition ends where the command would have ended. -/
theorem resume_seqStep {s : State} (hinv : SequencerOk p s) : resume p (seqStep p s) = resume p s := by
  unfold SequencerOk at hinv
  rcases seqStep_cases p s with
    ⟨h, e⟩ | ⟨h, e⟩ | ⟨h, e⟩ | ⟨h, e⟩ | ⟨h, e⟩ | ⟨h, e⟩ <;> rw [e] <;> rw [h] at hinv
  · exact resume_seqStep_check h
  · exact resume_seqStep_decode hinv.2 h
  · exact resume_seqStep_build hinv.2.1 hinv.2.2 h
  · exact resume_seqStep_kernel hinv.2 h
  · exact resume_seqStep_encode hinv.2 h

/-- Settles O25. -/
theorem sequencerStepKeepsTheEnd : Obligations.SequencerStepKeepsTheEnd :=
  fun _ ⟨_, _, _, hseq, _⟩ _ => resume_seqStep hseq

/-! ### A command in one step -/

/-- While a command runs its flags are those that START has set (R27, R26). -/
theorem flags_of_busy {s : State} (hflags : FlagsOk s) (hb : s.busy = true) :
    s.done = false ∧ s.err = false ∧ s.errcode = 0 := by
  obtain ⟨hbusy, -, herr, -⟩ := hflags
  obtain ⟨hd, he⟩ := hbusy hb
  refine ⟨hd, he, ?_⟩
  by_contra hc
  exact absurd (he.symm.trans (herr.mpr hc)) (by decide)

/-- A state in CHECK is what START has made of it. -/
theorem beginCommand_latched {s : State} (hinv : Inv p s) (hphase : s.phase = .check) :
    beginCommand s.lat.m s.lat.w s.lat.nb s = s := by
  obtain ⟨hflags, hbusy, -, hseq, -⟩ := hinv
  have hb := hbusy.mpr (by rw [hphase]; decide)
  obtain ⟨hd, he, hc⟩ := flags_of_busy hflags hb
  have hi : s.idx = 0 := by unfold SequencerOk at hseq; rw [hphase] at hseq; exact hseq
  cases s
  subst hphase hb hd he hc hi
  rfl

/-- Settles O26: the fetched command has the latched operands, so to begin it again changes nothing. -/
theorem commandIsItsSequencerRun : Obligations.CommandIsItsSequencerRun := by
  intro s hinv hphase
  have htag : (fetch s).tag = s.lat.m := by
    rw [fetch, decodeCommand, tag_commandOf]
    exact (Laws.EncodingShape.tag_word s.lat.m).2
  have hw : BitVec.ofNat 32 (fetch s).width = s.lat.w := by
    rw [fetch, decodeCommand, width_commandOf, BitVec.ofNat_toNat, BitVec.setWidth_eq]
  have hn : BitVec.ofNat 32 (fetch s).nbytes = s.lat.nb := by
    rw [fetch, decodeCommand, nbytes_commandOf, BitVec.ofNat_toNat, BitVec.setWidth_eq]
  rw [exec_eq_run, htag, hw, hn, beginCommand_latched hinv hphase, resume, hphase]

end Sys2Proof.Machine

/-! ## The invariant of the block's state (spec/10_state.md R26 to R36) -/

namespace Sys2Proof.Machine

variable {p : Params}

/-! ### Writes keep the stores and buffers canonical -/

theorem CellsOk.setLum {s : State} (h : CellsOk p s) {i : Nat} (hi : i < p.maxPix) (v : FmtVal) :
    CellsOk p (setLum i v s) := by
  obtain ⟨⟨hw, hb⟩, hrest⟩ := h
  exact ⟨⟨writeCell_wf _ _ hw, writeCell_below _ hb hi⟩, hrest⟩

theorem CellsOk.setAlpha {s : State} (h : CellsOk p s) {i : Nat} (hi : i < p.maxPix) (v : Byte) :
    CellsOk p (setAlpha i v s) := by
  obtain ⟨hl, ⟨hw, hb⟩, hrest⟩ := h
  exact ⟨hl, ⟨writeCell_wf _ _ hw, writeCell_below _ hb hi⟩, hrest⟩

theorem CellsOk.setMat {s : State} (h : CellsOk p s) {k : Nat} (hk : k < matCap) (v : Byte) :
    CellsOk p (setMat k v s) := by
  obtain ⟨hl, ha, ⟨hw, hb⟩, hrest⟩ := h
  exact ⟨hl, ha, ⟨writeCell_wf _ _ hw, writeCell_below _ hb hk⟩, hrest⟩

theorem CellsOk.setIn {s : State} (h : CellsOk p s) {a : Nat} (ha : a < 4 * p.maxPix) (v : Byte) :
    CellsOk p (setIn a v s) := by
  obtain ⟨hl, hal, hm, ⟨hw, hb⟩, ho⟩ := h
  exact ⟨hl, hal, hm, ⟨writeCell_wf _ _ hw, writeCell_below _ hb ha⟩, ho⟩

theorem CellsOk.setOut {s : State} (h : CellsOk p s) {a : Nat} (ha : a < 4 * p.maxPix) (v : Byte) :
    CellsOk p (setOut a v s) := by
  obtain ⟨hl, hal, hm, hi, ⟨hw, hb⟩⟩ := h
  exact ⟨hl, hal, hm, hi, ⟨writeCell_wf _ _ hw, writeCell_below _ hb ha⟩⟩

theorem byteAddr_lt {i c n : Nat} (hi : i < n) (hc : c < 4) : byteAddr i c < 4 * n := by
  unfold byteAddr; omega

theorem cellsOk_nil {α : Type} (bound : Nat) :
    CellsWf ([] : List (Nat × α)) ∧ CellsBelow bound ([] : List (Nat × α)) :=
  ⟨cellsWf_nil, by simp [CellsBelow]⟩

/-- Stores that have been forgotten are canonical. -/
theorem CellsOk.forgetStores {s : State} (h : CellsOk p s) : CellsOk p (forgetStores s) := by
  obtain ⟨-, -, -, hi, ho⟩ := h
  exact ⟨cellsOk_nil _, cellsOk_nil _, cellsOk_nil _, hi, ho⟩

/-! ### The work on one pixel or one matrix entry -/

theorem CellsOk.decodePixel {s : State} (h : CellsOk p s) {i : Nat} (hi : i < p.maxPix) :
    CellsOk p (decodePixel p i s) := (h.setLum hi _).setAlpha hi _

theorem CellsOk.buildEntry {s : State} (h : CellsOk p s) {k : Nat} (hk : k < matCap) (n : Nat) :
    CellsOk p (buildEntry n k s) := h.setMat hk _

theorem CellsOk.encodePixel {s : State} (h : CellsOk p s) {i : Nat} (hi : i < p.maxPix) :
    CellsOk p (encodePixel p i s) :=
  (((h.setOut (byteAddr_lt hi (by decide)) _).setOut (byteAddr_lt hi (by decide)) _).setOut
    (byteAddr_lt hi (by decide)) _).setOut (byteAddr_lt hi (by decide)) _

theorem CellsOk.freePixel {s : State} (h : CellsOk p s) {i : Nat} (hi : i < p.maxPix) (k : Nat) :
    CellsOk p (freePixel p k i s) :=
  (((h.setOut (byteAddr_lt hi (by decide)) _).setOut (byteAddr_lt hi (by decide)) _).setOut
    (byteAddr_lt hi (by decide)) _).setOut (byteAddr_lt hi (by decide)) _

theorem CellsOk.addLumIf {s : State} (h : CellsOk p s) {c : Bool} {j : Nat}
    (hj : c = true → j < p.maxPix) (v : FmtVal) : CellsOk p (addLumIf p c j v s) := by
  unfold Machine.addLumIf
  split
  · next hc => exact h.setLum (hj hc) _
  · exact h

theorem addLumIf_lat (c : Bool) (j : Nat) (v : FmtVal) (s : State) :
    (addLumIf p c j v s).lat = s.lat := by
  obtain ⟨l, e, -⟩ := addLumIf_spec (p := p) c j v s
  rw [e]

/-- Every share goes to a pixel of the image (R174, R175). -/
theorem CellsOk.diffuse {s : State} (h : CellsOk p s)
    (hsize : s.lat.w.toNat * s.lat.h.toNat ≤ p.maxPix) {i : Nat}
    (hi : i < s.lat.w.toNat * s.lat.h.toNat) (e : FmtVal) : CellsOk p (diffuse p i e s) := by
  obtain ⟨x, y, hx, hy, rfl⟩ := exists_rowMajor hi
  unfold Machine.diffuse
  dsimp only
  rw [colOf_rowMajor y hx, rowOf_rowMajor y hx]
  generalize s.lat.w.toNat = w at hsize hx
  generalize s.lat.h.toNat = ht at hsize hy
  have hin : ∀ {x' y'}, x' < w → y' < ht → y' * w + x' < p.maxPix := fun h1 h2 =>
    (rowMajor_lt_mul h1 h2).trans_le hsize
  have hrow : (y + 1) * w = y * w + w := by ring
  refine (((h.addLumIf ?_ _).addLumIf ?_ _).addLumIf ?_ _).addLumIf ?_ _ <;> intro hc <;>
    simp only [Bool.and_eq_true, decide_eq_true_eq] at hc
  · exact hin hc hy
  · have := hin hx hc.2; omega
  · have := hin hx hc; omega
  · have := hin hc.1 hc.2; omega

/-- The pixel of an image with passed operands is one that exists. -/
theorem LatchedOk.lt_maxPix {l : Latched} (h : LatchedOk p l) {i : Nat} (hi : i < l.n.toNat) :
    i < p.maxPix := by
  obtain ⟨-, -, -, -, hle⟩ := h
  omega

theorem CellsOk.kernelPixel {s : State} (h : CellsOk p s) (hl : LatchedOk p s.lat) {i : Nat}
    (hi : i < s.lat.n.toNat) (m : BitVec 3) : CellsOk p (kernelPixel p m i s) := by
  have hmax := hl.lt_maxPix hi
  obtain ⟨-, -, hsize, -, hle⟩ := hl
  unfold Machine.kernelPixel
  split_ifs
  · exact h
  · exact h.setLum hmax _
  · exact h.setLum hmax _
  · exact CellsOk.diffuse (s := Machine.setLum i _ s) (h.setLum hmax _) (hsize ▸ hle) (hsize ▸ hi) _
  · exact h.setLum hmax _

theorem CellsOk.settleResult {s : State} (h : CellsOk p s) (hle : s.lat.n.toNat ≤ p.maxPix) :
    CellsOk p (settleResult p s) := by
  refine forRange_induct (start := 0) (count := s.lat.n.toNat) (s := s)
    (f := fun i t => if resultSpecified s i then t else Machine.freePixel p s.fresh i t)
    (P := fun _ t => CellsOk p t) h fun i t _ hi ht => ?_
  split
  · exact ht
  · exact ht.freePixel (by omega) _

/-! ### A running command -/

/-- What the invariant says of a running command apart from its phase. -/
structure Running (p : Params) (s : State) : Prop where
  busy : s.busy = true
  done : s.done = false
  err : s.err = false
  errcode : s.errcode = 0
  cells : CellsOk p s

theorem Inv.running {s : State} (h : Inv p s) (hphase : s.phase ≠ .idle) : Running p s := by
  obtain ⟨hflags, hbusy, -, -, hcells⟩ := h
  have hb := hbusy.mpr hphase
  obtain ⟨hd, he, hc⟩ := flags_of_busy hflags hb
  exact ⟨hb, hd, he, hc, hcells⟩

theorem Running.inv {s : State} (h : Running p s) (hphase : s.phase ≠ .idle)
    (hseq : SequencerOk p s) : Inv p s := by
  obtain ⟨hb, hd, he, hc, hcells⟩ := h
  refine ⟨⟨fun _ => ⟨hd, he⟩, fun _ => he, ?_, ?_⟩, iff_of_true hb hphase,
    fun h => absurd (hb.symm.trans h) (by decide), hseq, hcells⟩
  · rw [he, hc]; decide
  · rw [hc]; decide

/-- The failure of a running command meets the invariant (R196). -/
theorem Running.inv_raise {s : State} (h : Running p s) (f : Failure) : Inv p (raise p f s) := by
  have hcode : failureCode f ≠ 0 ∧ failureCode f ≠ 3 := by cases f <;> decide
  refine ⟨⟨?_, ?_, ?_, hcode.2⟩, ?_, fun _ => rfl, rfl, h.cells.forgetStores⟩
  · rw [raise_busy]; exact fun h => absurd h Bool.false_ne_true
  · rw [raise_done, h.done]; exact fun h => absurd h Bool.false_ne_true
  · rw [raise_err, raise_errcode]; exact iff_of_true rfl hcode.1
  · rw [raise_busy, raise_phase]; exact iff_of_false Bool.false_ne_true fun h => h rfl

/-- The successful end of a running command meets the invariant (R29). -/
theorem Running.inv_endSuccess {s : State} (h : Running p s) (hle : s.lat.n.toNat ≤ p.maxPix) :
    Inv p (endSuccess p s) := by
  obtain ⟨-, -, -, -, hout⟩ := h.cells.settleResult hle
  obtain ⟨-, -, -, hin, -⟩ := h.cells
  rw [endSuccess_eq]
  refine ⟨⟨?_, fun _ => h.err, ?_, ?_⟩, ?_, fun _ => rfl, rfl,
    ⟨cellsOk_nil _, cellsOk_nil _, cellsOk_nil _, hin, hout⟩⟩
  · exact fun h => absurd h Bool.false_ne_true
  · show s.err = true ↔ s.errcode ≠ 0
    rw [h.err, h.errcode]; decide
  · show s.errcode ≠ 3
    rw [h.errcode]; decide
  · exact iff_of_false Bool.false_ne_true fun h => h rfl

/-! ### The work of a phase leaves the sequencer where it is -/

/-- The sequencer and the flags of `t` are those of `s`. -/
structure SamePlace (s t : State) : Prop where
  phase : t.phase = s.phase
  idx : t.idx = s.idx
  lat : t.lat = s.lat
  busy : t.busy = s.busy
  done : t.done = s.done
  err : t.err = s.err
  errcode : t.errcode = s.errcode

theorem samePlace_decodePixel (i : Nat) (s : State) : SamePlace s (decodePixel p i s) := by
  constructor <;> simp only [decodePixel, setAlpha_phase, setAlpha_idx, setAlpha_lat, setAlpha_busy,
    setAlpha_done, setAlpha_err, setAlpha_errcode, setLum_phase, setLum_idx, setLum_lat, setLum_busy,
    setLum_done, setLum_err, setLum_errcode]

theorem samePlace_buildEntry (n k : Nat) (s : State) : SamePlace s (buildEntry n k s) := by
  constructor <;> simp only [buildEntry, setMat_phase, setMat_idx, setMat_lat, setMat_busy,
    setMat_done, setMat_err, setMat_errcode]

theorem samePlace_kernelPixel (m : BitVec 3) (i : Nat) (s : State) :
    SamePlace s (kernelPixel p m i s) := by
  obtain ⟨l, e⟩ := kernelLoop_only (p := p) m 1 i s
  have e' : kernelPixel p m i s =
      { s with lum := l, draws := s.draws + if m = 0b010#3 then 1 else 0 } := e
  rw [e']
  exact ⟨rfl, rfl, rfl, rfl, rfl, rfl, rfl⟩

theorem samePlace_encodePixel (i : Nat) (s : State) : SamePlace s (encodePixel p i s) := by
  constructor <;> simp only [encodePixel, setOut_phase, setOut_idx, setOut_lat, setOut_busy,
    setOut_done, setOut_err, setOut_errcode]

theorem Running.samePlace {s t : State} (h : Running p s) (hst : SamePlace s t)
    (hcells : CellsOk p t) : Running p t :=
  ⟨hst.busy.trans h.busy, hst.done.trans h.done, hst.err.trans h.err, hst.errcode.trans h.errcode,
    hcells⟩

/-! ### One transition of the sequencer keeps the invariant -/

/-- A phase that goes on keeps the invariant if `IDX` is still in its range, one that ends if the
phase entered meets it. -/
theorem inv_advance {limit : Nat} {leave : State → State} {s : State} (hrun : Running p s)
    (hphase : s.phase ≠ .idle) (hlim : limit ≤ 2 ^ 30)
    (hgo : ∀ x : BitVec 30, x.toNat < limit → SequencerOk p (setIdx x s))
    (hleave : Inv p (leave s)) : Inv p (advance limit leave s) := by
  rcases advance_cases limit leave s with ⟨h, e⟩ | ⟨-, e⟩ <;> rw [e]
  · exact Running.inv (s := setIdx (s.idx + 1) s) ⟨hrun.busy, hrun.done, hrun.err, hrun.errcode,
      hrun.cells⟩ hphase (hgo _ (by rw [toNat_idx_succ hlim h]; exact h))
  · exact hleave

/-- A running command that enters a phase after CHECK at `IDX` 0. -/
theorem Running.inv_enter {s : State} (h : Running p s) {ph : Phase} (hph : ph ≠ .idle)
    (hseq : SequencerOk p (enterPhase ph s)) : Inv p (enterPhase ph s) :=
  Running.inv (s := enterPhase ph s) ⟨h.busy, h.done, h.err, h.errcode, h.cells⟩ hph hseq

theorem inv_passCheck {s : State} (hrun : Running p s)
    (hc : checkShape p s.lat.w.toNat s.lat.nb.toNat = none) : Inv p (passCheck s) := by
  obtain ⟨hn, hh, hnb, hsize, hpos⟩ := passCheck_latched hc
  obtain ⟨hw, -, -, hmax⟩ := checkShape_none_iff.mp hc
  refine Running.inv (s := passCheck s) ⟨hrun.busy, hrun.done, hrun.err, hrun.errcode, hrun.cells⟩
    (by rw [passCheck_phase]; decide) ?_
  refine ⟨⟨hw, ?_, ?_, ?_, ?_⟩, ?_⟩
  · rw [hn]; exact hnb
  · rw [hn, hh]; exact hsize
  · rw [hn]; exact hpos
  · rw [hn]; exact hmax
  · rw [passCheck_idx, hn]; exact hpos

/-- The side of a requested matrix is positive. -/
theorem side_mul_side_pos (n : Nat) : 0 < sideOf n * sideOf n := by
  unfold sideOf; positivity

theorem inv_leaveDecode {s : State} (hrun : Running p s) (hl : LatchedOk p s.lat) :
    Inv p (leaveDecode s) := by
  unfold leaveDecode
  split
  · next hb => exact hrun.inv_enter (by decide) ⟨hl, hb, side_mul_side_pos _⟩
  · obtain ⟨-, -, -, hpos, -⟩ := id hl
    exact hrun.inv_enter (by decide) ⟨hl, hpos⟩

/-- One transition of KERNEL after the question to the random source, if there is one. -/
theorem inv_advance_kernel {s : State} (hrun : Running p s) (hl : LatchedOk p s.lat)
    (hidx : s.idx.toNat < s.lat.n.toNat) (hphase : s.phase = .kernel) :
    Inv p (advance s.lat.n.toNat (enterPhase .encode)
      (kernelPixel p s.lat.m s.idx.toNat s)) := by
  have hsame := samePlace_kernelPixel (p := p) s.lat.m s.idx.toNat s
  have hlat := hsame.lat
  have hp := hsame.phase
  have hrun' := hrun.samePlace hsame (hrun.cells.kernelPixel hl hidx s.lat.m)
  obtain ⟨-, -, -, hpos, -⟩ := id hl
  refine inv_advance hrun' (by rw [hp, hphase]; decide) s.lat.n.isLt.le (fun x hx => ?_)
    (hrun'.inv_enter (by decide) ?_)
  · unfold SequencerOk
    rw [setIdx_phase, hp, hphase, setIdx_lat, hlat]
    exact ⟨hl, hx⟩
  · exact ⟨by rw [enterPhase_lat, hlat]; exact hl, by rw [enterPhase_lat, hlat]; exact hpos⟩

theorem inv_advance_decode {s : State} (hrun : Running p s) (hl : LatchedOk p s.lat)
    (hidx : s.idx.toNat < s.lat.n.toNat) (hphase : s.phase = .decode) :
    Inv p (advance s.lat.n.toNat leaveDecode (decodePixel p s.idx.toNat s)) := by
  have hsame := samePlace_decodePixel (p := p) s.idx.toNat s
  have hlat := hsame.lat
  have hp := hsame.phase.trans hphase
  have hrun' := hrun.samePlace hsame (hrun.cells.decodePixel (hl.lt_maxPix hidx))
  refine inv_advance hrun' (by rw [hp]; decide) s.lat.n.isLt.le (fun x hx => ?_)
    (inv_leaveDecode hrun' (hlat.symm ▸ hl))
  unfold SequencerOk
  rw [setIdx_phase, hp, setIdx_lat, hlat]
  exact ⟨hl, hx⟩

theorem inv_advance_build {s : State} (hrun : Running p s) (hl : LatchedOk p s.lat)
    (hb : isBayer s.lat.m = true)
    (hidx : s.idx.toNat < sideOf (bayerOrder s.lat.m) * sideOf (bayerOrder s.lat.m))
    (hphase : s.phase = .build) :
    Inv p (advance (sideOf (bayerOrder s.lat.m) * sideOf (bayerOrder s.lat.m)) (enterPhase .kernel)
      (buildEntry (bayerOrder s.lat.m) s.idx.toNat s)) := by
  have hsame := samePlace_buildEntry (bayerOrder s.lat.m) s.idx.toNat s
  have hlat := hsame.lat
  have hp := hsame.phase.trans hphase
  have hcap := side_mul_side_le hb
  have hrun' := hrun.samePlace hsame (hrun.cells.buildEntry (hidx.trans_le hcap) _)
  obtain ⟨-, -, -, hpos, -⟩ := id hl
  refine inv_advance hrun' (by rw [hp]; decide) (hcap.trans (by decide)) (fun x hx => ?_)
    (hrun'.inv_enter (by decide) ⟨hl, hpos⟩)
  unfold SequencerOk
  rw [setIdx_phase, hp, setIdx_lat, hlat]
  exact ⟨hl, hb, hx⟩

theorem inv_startKernel {s : State} (hrun : Running p s) (hl : LatchedOk p s.lat)
    (hidx : s.idx.toNat < s.lat.n.toNat) (hphase : s.phase = .kernel) :
    Inv p (startKernel p (fun s₁ => advance s₁.lat.n.toNat (enterPhase .encode)
      (kernelPixel p s₁.lat.m s₁.idx.toNat s₁)) s) := by
  have hask : Running p (countAsk s) := ⟨hrun.busy, hrun.done, hrun.err, hrun.errcode, hrun.cells⟩
  unfold startKernel
  split
  · rcases askRandomSource_cases p (fun s₁ => advance s₁.lat.n.toNat (enterPhase .encode)
      (kernelPixel p s₁.lat.m s₁.idx.toNat s₁)) s with ⟨-, e⟩ | ⟨-, e⟩ <;> rw [e]
    · exact inv_advance_kernel hask hl hidx hphase
    · exact hask.inv_raise _
  · exact inv_advance_kernel hrun hl hidx hphase

theorem inv_advance_encode {s : State} (hrun : Running p s) (hl : LatchedOk p s.lat)
    (hidx : s.idx.toNat < s.lat.n.toNat) (hphase : s.phase = .encode) :
    Inv p (advance s.lat.n.toNat (endSuccess p) (encodePixel p s.idx.toNat s)) := by
  have hsame := samePlace_encodePixel (p := p) s.idx.toNat s
  have hlat := hsame.lat
  have hp := hsame.phase.trans hphase
  have hrun' := hrun.samePlace hsame (hrun.cells.encodePixel (hl.lt_maxPix hidx))
  obtain ⟨-, -, -, -, hle⟩ := id hl
  refine inv_advance hrun' (by rw [hp]; decide) s.lat.n.isLt.le (fun x hx => ?_)
    (hrun'.inv_endSuccess (by rw [hlat]; exact hle))
  unfold SequencerOk
  rw [setIdx_phase, hp, setIdx_lat, hlat]
  exact ⟨hl, hx⟩

/-- Every transition of the sequencer keeps the invariant. -/
theorem inv_seqStep {s : State} (hinv : Inv p s) : Inv p (seqStep p s) := by
  have hrun := hinv.running
  obtain ⟨-, -, -, hseq, -⟩ := id hinv
  unfold SequencerOk at hseq
  rcases seqStep_cases p s with
    ⟨h, e⟩ | ⟨h, e⟩ | ⟨h, e⟩ | ⟨h, e⟩ | ⟨h, e⟩ | ⟨h, e⟩ <;> rw [e] <;> rw [h] at hseq hrun
  · exact hinv
  · rcases runCheck_cases p id s with ⟨hc, e⟩ | ⟨-, e⟩ <;> rw [e]
    · exact inv_passCheck (hrun (by decide)) hc
    · exact (hrun (by decide)).inv_raise _
  · exact inv_advance_decode (hrun (by decide)) hseq.1 hseq.2 h
  · exact inv_advance_build (hrun (by decide)) hseq.1 hseq.2.1 hseq.2.2 h
  · exact inv_startKernel (hrun (by decide)) hseq.1 hseq.2 h
  · exact inv_advance_encode (hrun (by decide)) hseq.1 hseq.2 h

end Sys2Proof.Machine

/-! ## Every started command ends (spec/70_reset_and_hazards.md R232) -/

namespace Sys2Proof.Machine

variable {p : Params}

/-- An upper bound for the number of transitions a command on `n` pixels still takes from `IDX = i` of
a phase on (R31). -/
def stepsFrom (n : Nat) : Phase → Nat → Nat
  | .idle, _ => 0
  | .check, _ => 3 * 2 ^ 30 + 256
  | .decode, i => (n - i) + 256 + 2 * n
  | .build, i => (256 - i) + 2 * n
  | .kernel, i => (n - i) + n
  | .encode, i => n - i

/-- That bound for a state. -/
def stepsLeft (s : State) : Nat := stepsFrom s.lat.n.toNat s.phase s.idx.toNat

theorem stepsLeft_le (s : State) : stepsLeft s ≤ 3 * 2 ^ 30 + 256 := by
  have := s.lat.n.isLt
  unfold stepsLeft stepsFrom
  split <;> omega

/-- The end of a command in the flags (R29, R196). -/
def Ended (s : State) : Prop :=
  s.busy = false ∧ s.phase = .idle ∧ (s.done = true ↔ s.err = false)

theorem ended_raise {s : State} (h : s.done = false) (f : Failure) : Ended (raise p f s) :=
  ⟨rfl, rfl, by rw [raise_done, raise_err, h]; decide⟩

theorem ended_endSuccess {s : State} (h : s.err = false) : Ended (endSuccess p s) := by
  rw [endSuccess_eq]
  exact ⟨rfl, rfl, iff_of_true rfl h⟩

/-- What a transition of a command with at most `n` transitions left leads to: its end, or fewer of
them. -/
def Progress (n : Nat) (t : State) : Prop := Ended t ∨ t.phase ≠ .idle ∧ stepsLeft t < n

/-! ### Each transition -/

/-- A phase progresses if its next index leaves fewer transitions and the phase it leads to
progresses. -/
theorem progress_advance {limit : Nat} {leave : State → State} {s t : State} (h : SamePlace s t)
    (hphase : s.phase ≠ .idle) (hlim : limit ≤ 2 ^ 30)
    (hgo : s.idx.toNat + 1 < limit →
      stepsFrom s.lat.n.toNat s.phase (s.idx.toNat + 1) < stepsLeft s)
    (hleave : Progress (stepsLeft s) (leave t)) :
    Progress (stepsLeft s) (advance limit leave t) := by
  obtain ⟨hph, hi, hl, -⟩ := h
  rcases advance_cases limit leave t with ⟨hlt, e⟩ | ⟨-, e⟩ <;> rw [e]
  · refine Or.inr ⟨hph.trans_ne hphase, ?_⟩
    have hx := toNat_idx_succ hlim hlt
    show stepsFrom t.lat.n.toNat t.phase (t.idx + 1).toNat < _
    rw [hx, hl, hph, hi]
    exact hgo (hi ▸ hlt)
  · exact hleave

/-- Entering a later phase progresses if fewer transitions are left from its first index on. -/
theorem progress_enterPhase {n : Nat} {ph : Phase} {s t : State} (h : SamePlace s t)
    (hph : ph ≠ .idle) (hlt : stepsFrom s.lat.n.toNat ph 0 < n) :
    Progress n (enterPhase ph t) :=
  Or.inr ⟨hph, show stepsFrom t.lat.n.toNat ph 0 < n from h.lat ▸ hlt⟩

theorem progress_decode {s : State} (h : s.phase = .decode) (hidx : s.idx.toNat < s.lat.n.toNat) :
    Progress (stepsLeft s) (advance s.lat.n.toNat leaveDecode (decodePixel p s.idx.toNat s)) := by
  have hsame := samePlace_decodePixel (p := p) s.idx.toNat s
  refine progress_advance hsame (by rw [h]; decide) s.lat.n.isLt.le (fun _ => ?_) ?_
  · simp only [stepsLeft, h, stepsFrom]; omega
  · unfold leaveDecode
    split <;> refine progress_enterPhase hsame (by decide) ?_ <;>
      simp only [stepsLeft, h, stepsFrom] <;> omega

theorem progress_build {s : State} (h : s.phase = .build) (hb : isBayer s.lat.m = true)
    (hidx : s.idx.toNat < sideOf (bayerOrder s.lat.m) * sideOf (bayerOrder s.lat.m)) :
    Progress (stepsLeft s) (advance (sideOf (bayerOrder s.lat.m) * sideOf (bayerOrder s.lat.m))
      (enterPhase .kernel) (buildEntry (bayerOrder s.lat.m) s.idx.toNat s)) := by
  have hsame := samePlace_buildEntry (bayerOrder s.lat.m) s.idx.toNat s
  have hcap : _ ≤ 256 := side_mul_side_le hb
  refine progress_advance hsame (by rw [h]; decide) (hcap.trans (by decide)) (fun _ => ?_)
    (progress_enterPhase hsame (by decide) ?_) <;> simp only [stepsLeft, h, stepsFrom] <;> omega

/-- One transition of KERNEL after the question to the random source, if there is one. -/
theorem progress_kernelPixel {s : State} (h : s.phase = .kernel)
    (hidx : s.idx.toNat < s.lat.n.toNat) :
    Progress (stepsLeft s) (advance s.lat.n.toNat (enterPhase .encode)
      (kernelPixel p s.lat.m s.idx.toNat s)) := by
  have hsame := samePlace_kernelPixel (p := p) s.lat.m s.idx.toNat s
  refine progress_advance hsame (by rw [h]; decide) s.lat.n.isLt.le (fun _ => ?_)
    (progress_enterPhase hsame (by decide) ?_) <;> simp only [stepsLeft, h, stepsFrom] <;> omega

theorem progress_kernel {s : State} (hrun : Running p s) (h : s.phase = .kernel)
    (hidx : s.idx.toNat < s.lat.n.toNat) :
    Progress (stepsLeft s) (startKernel p (fun s₁ => advance s₁.lat.n.toNat (enterPhase .encode)
      (kernelPixel p s₁.lat.m s₁.idx.toNat s₁)) s) := by
  unfold startKernel
  split
  · rcases askRandomSource_cases p (fun s₁ => advance s₁.lat.n.toNat (enterPhase .encode)
      (kernelPixel p s₁.lat.m s₁.idx.toNat s₁)) s with ⟨-, e⟩ | ⟨-, e⟩ <;> rw [e]
    · exact progress_kernelPixel (s := countAsk s) h hidx
    · exact Or.inl (ended_raise (s := countAsk s) hrun.done _)
  · exact progress_kernelPixel h hidx

theorem progress_encode {s : State} (hrun : Running p s) (h : s.phase = .encode) :
    Progress (stepsLeft s)
      (advance s.lat.n.toNat (endSuccess p) (encodePixel p s.idx.toNat s)) := by
  have hsame := samePlace_encodePixel (p := p) s.idx.toNat s
  refine progress_advance hsame (by rw [h]; decide) s.lat.n.isLt.le (fun _ => ?_)
    (Or.inl (ended_endSuccess (hsame.err.trans hrun.err)))
  simp only [stepsLeft, h, stepsFrom]; omega

theorem progress_check {s : State} (hrun : Running p s) (h : s.phase = .check) :
    Progress (stepsLeft s) (runCheck p id s) := by
  rcases runCheck_cases p id s with ⟨-, e⟩ | ⟨-, e⟩ <;> rw [e]
  · refine Or.inr ⟨by rw [id, passCheck_phase]; decide, ?_⟩
    have := (passCheck s).lat.n.isLt
    simp only [id, stepsLeft, h, passCheck_phase, passCheck_idx, stepsFrom]
    omega
  · exact Or.inl (ended_raise hrun.done _)

/-- Every transition of a running command brings it nearer to its end. -/
theorem progress_seqStep {s : State} (hinv : Inv p s) (hphase : s.phase ≠ .idle) :
    Progress (stepsLeft s) (seqStep p s) := by
  have hrun := hinv.running hphase
  obtain ⟨-, -, -, hseq, -⟩ := hinv
  unfold SequencerOk at hseq
  rcases seqStep_cases p s with
    ⟨h, e⟩ | ⟨h, e⟩ | ⟨h, e⟩ | ⟨h, e⟩ | ⟨h, e⟩ | ⟨h, e⟩ <;> rw [e] <;> rw [h] at hseq
  · exact absurd h hphase
  · exact progress_check hrun h
  · exact progress_decode h hseq.2
  · exact progress_build h hseq.2.1 hseq.2.2
  · exact progress_kernel hrun h hseq.2
  · exact progress_encode hrun h

/-! ### The whole run -/

/-- A running command is run to its end by one transition more than those left at most, the one that
ends it. -/
theorem exists_iterate_seqStep {n : Nat} {s : State} (hinv : Inv p s) (hphase : s.phase ≠ .idle)
    (hn : stepsLeft s ≤ n) :
    ∃ k, k ≤ n + 1 ∧ (seqStep p)^[k] s = resume p s ∧ Ended (resume p s) := by
  induction n using Nat.strong_induction_on generalizing s with
  | _ n ih =>
    obtain ⟨-, -, -, hseq, -⟩ := id hinv
    have hresume := resume_seqStep hseq
    rcases progress_seqStep hinv hphase with hend | ⟨hnext, hlt⟩
    · have hlast : seqStep p s = resume p s := by rw [← hresume, resume_of_idle hend.2.1]
      exact ⟨1, by omega, hlast, hlast ▸ hend⟩
    · obtain ⟨k, hk, hiter, hend⟩ := ih _ (hlt.trans_le hn) (inv_seqStep hinv) hnext le_rfl
      rw [hresume] at hiter hend
      exact ⟨k + 1, by omega, hiter, hend⟩

/-- Settles O27. -/
theorem everyStartedCommandEnds : Obligations.EveryStartedCommandEnds := fun s hinv hphase =>
  exists_iterate_seqStep hinv hphase (stepsLeft_le s)

end Sys2Proof.Machine

/-! ## Every step keeps the invariant -/

namespace Sys2Proof.Machine

/-! ### The block's own step -/

theorem inv_iterate_seqStep {p : Params} {s : State} (hinv : Inv p s) (k : Nat) :
    Inv p ((seqStep p)^[k] s) :=
  Function.Iterate.rec _ hinv (fun _ h => inv_seqStep h) k

/-- The rest of a command keeps the invariant: it is a run of the sequencer. -/
theorem inv_resume {p : Params} {s : State} (hinv : Inv p s) : Inv p (resume p s) := by
  by_cases hphase : s.phase = .idle
  · rw [resume_of_idle hphase]; exact hinv
  · obtain ⟨k, -, hiter, -⟩ := exists_iterate_seqStep hinv hphase le_rfl
    exact hiter ▸ inv_iterate_seqStep hinv k

/-- The block's own step, of a command just started or in progress, is the rest of that command. -/
theorem blockRun_eq_resume {s : State} (hinv : Inv chip s) : blockRun s = .next (resume chip s) := by
  rcases blockRun_cases (s := s) rfl with ⟨hphase, e⟩ | ⟨-, e⟩
  · exact e.symm.trans (commandIsItsSequencerRun s hinv hphase)
  · exact e

/-! ### The host's moves -/

section HostMoves

variable {p : Params} {s : State}

/-- An accepted START gives a state of CHECK (R27). -/
theorem inv_hostStart (hinv : Inv p s) : Inv p (hostStart s) := by
  obtain ⟨-, -, -, -, hcells⟩ := hinv
  exact Running.inv (s := hostStart s) ⟨rfl, rfl, rfl, rfl, hcells⟩
    (show Phase.check ≠ .idle by decide) rfl

theorem inv_writeRegister (hinv : Inv p s) (r : Nat) (v : Word) : Inv p (writeRegister r v s) := by
  unfold writeRegister
  split
  · unfold writeCtrl
    split
    · exact inv_hostStart hinv
    · exact hinv
  all_goals exact hinv

/-- A write of a buffer keeps the invariant: the mark is set only while BUSY (R67). -/
theorem inv_noteDisturbance (hinv : Inv p s) : Inv p (noteDisturbance s) := by
  obtain ⟨hflags, hbusy, hdist, hseq, hcells⟩ := hinv
  refine ⟨hflags, hbusy, fun h => ?_, hseq, hcells⟩
  rw [noteDisturbance_disturbed, hdist h]
  exact h

theorem inv_setIn (hinv : Inv p s) {a : Nat} (ha : a < 4 * p.maxPix) (v : Byte) :
    Inv p (setIn a v s) := by
  obtain ⟨hflags, hbusy, hdist, hseq, hcells⟩ := hinv
  exact ⟨hflags, hbusy, hdist, hseq, hcells.setIn ha v⟩

theorem inv_setOut (hinv : Inv p s) {a : Nat} (ha : a < 4 * p.maxPix) (v : Byte) :
    Inv p (setOut a v s) := by
  obtain ⟨hflags, hbusy, hdist, hseq, hcells⟩ := hinv
  exact ⟨hflags, hbusy, hdist, hseq, hcells.setOut ha v⟩

theorem inv_readOutByte (hinv : Inv p s) (a : Nat) : Inv p (readOutByte p a s) := by
  unfold readOutByte
  split <;> exact hinv

theorem inv_resetBlock (s : State) : Inv p (resetBlock s) := by
  refine ⟨⟨fun h => absurd h Bool.false_ne_true, fun h => absurd h Bool.false_ne_true, ?_, ?_⟩,
    ?_, fun _ => rfl, rfl, cellsOk_nil _, cellsOk_nil _, cellsOk_nil _, cellsOk_nil _,
    cellsOk_nil _⟩
  · exact iff_of_false Bool.false_ne_true fun h => h rfl
  · exact (by decide : (0 : BitVec 2) ≠ 3)
  · exact iff_of_false Bool.false_ne_true fun h => h rfl

/-- Every move of the host keeps the invariant (R66 to R69). -/
theorem inv_hostMove {m : HostMove} {t : State} (hinv : Inv p s) (h : hostMove p m s = .next t) :
    Inv p t := by
  rcases hostMove_cases h with ⟨r, v, -, e⟩ | ⟨r, -, e⟩ | ⟨a, v, -, ha, e⟩ | ⟨a, -, -, e⟩ |
    ⟨a, v, -, ha, e⟩ | ⟨a, -, -, e⟩ | ⟨-, e⟩ | ⟨-, e⟩ | ⟨-, e⟩ | ⟨-, e⟩ <;> cases e
  · exact inv_writeRegister hinv r v
  · exact hinv
  · exact inv_noteDisturbance (inv_setIn hinv ha v)
  · exact hinv
  · exact inv_noteDisturbance (inv_setOut hinv ha v)
  · exact inv_readOutByte hinv a
  · exact inv_resetBlock s
  · exact hinv
  · exact inv_seqStep hinv

end HostMoves

/-- Settles O29. The list of the host's moves is no part of the invariant. -/
theorem everyStepKeepsTheInvariant : Obligations.EveryStepKeepsTheInvariant := by
  intro s t hinv h
  have hpop : ∀ rest, Inv chip { s with host := rest } := fun _ => hinv
  rcases step_cases h with ⟨-, e⟩ | ⟨rest, -, e⟩ | ⟨m, rest, -, -, e⟩
  · rw [blockRun_eq_resume hinv] at e
    cases e
    exact inv_resume hinv
  · rw [blockRun_eq_resume (hpop rest)] at e
    cases e
    exact inv_resume (hpop rest)
  · exact inv_hostMove (hpop rest) e

end Sys2Proof.Machine

/-! ## LUM holds values of the format only (spec/10_state.md R33) -/

namespace Sys2Proof.Machine

variable {p : Params} {s : State}

/-! ### The sequencer's transitions -/

theorem lumIsFmt_nil (h : s.lum = []) : LumIsFmt p s := fun c hc => by
  rw [h] at hc; exact absurd hc List.not_mem_nil

theorem lumIsFmt_raise (f : Failure) : LumIsFmt p (raise p f s) := lumIsFmt_nil rfl

theorem lumIsFmt_endSuccess : LumIsFmt p (endSuccess p s) :=
  lumIsFmt_nil (by rw [endSuccess_eq])

theorem LumIsFmt.setLum (h : LumIsFmt p s) (i : Nat) {v : FmtVal} (hv : IsFmt p.fmt v) :
    LumIsFmt p (setLum i v s) := fun c hc => by
  rcases mem_writeCell hc with rfl | hc
  · exact hv
  · exact h c hc

/-- A comparison gives 0 or 1. -/
theorem isFmt_thr (f : Fmt) (x y : FmtVal) : IsFmt f (thr x y) := by
  unfold thr
  split
  · exact isFmt_one f
  · exact isFmt_zero f

theorem LumIsFmt.decodePixel (h : LumIsFmt p s) (i : Nat) : LumIsFmt p (decodePixel p i s) :=
  h.setLum i (v := pixelLum p s i) (isFmt_rnd _ _)

theorem LumIsFmt.addLumIf (h : LumIsFmt p s) (c : Bool) (j : Nat) (v : FmtVal) :
    LumIsFmt p (addLumIf p c j v s) := by
  unfold Machine.addLumIf
  split
  · exact h.setLum j (isFmt_rnd _ _)
  · exact h

theorem LumIsFmt.diffuse (h : LumIsFmt p s) (i : Nat) (e : FmtVal) :
    LumIsFmt p (diffuse p i e s) :=
  (((h.addLumIf _ _ _).addLumIf _ _ _).addLumIf _ _ _).addLumIf _ _ _

theorem LumIsFmt.kernelPixel (h : LumIsFmt p s) (m : BitVec 3) (i : Nat) :
    LumIsFmt p (kernelPixel p m i s) := by
  unfold Machine.kernelPixel
  split_ifs
  · exact h
  · exact h.setLum i (isFmt_thr _ _ _)
  · exact h.setLum i (isFmt_thr _ _ _)
  · exact LumIsFmt.diffuse (h.setLum i (isFmt_thr _ _ _)) i _
  · exact h.setLum i (isFmt_thr _ _ _)

theorem LumIsFmt.encodePixel (h : LumIsFmt p s) (i : Nat) : LumIsFmt p (encodePixel p i s) := by
  have hlum : (Machine.encodePixel p i s).lum = s.lum := by
    simp only [Machine.encodePixel, setOut_lum]
  unfold LumIsFmt
  rw [hlum]
  exact h

/-- A phase that goes on leaves LUM alone. -/
theorem LumIsFmt.advance {limit : Nat} {leave : State → State} (h : LumIsFmt p s)
    (hleave : LumIsFmt p (leave s)) : LumIsFmt p (advance limit leave s) := by
  rcases advance_cases limit leave s with ⟨-, e⟩ | ⟨-, e⟩ <;> rw [e]
  · exact h
  · exact hleave

theorem LumIsFmt.advance_kernelPixel (h : LumIsFmt p s) :
    LumIsFmt p (Machine.advance s.lat.n.toNat (enterPhase .encode)
      (Machine.kernelPixel p s.lat.m s.idx.toNat s)) :=
  LumIsFmt.advance (h.kernelPixel _ _) (h.kernelPixel s.lat.m s.idx.toNat)

theorem LumIsFmt.seqStep (h : LumIsFmt p s) : LumIsFmt p (seqStep p s) := by
  rcases seqStep_cases p s with
    ⟨-, e⟩ | ⟨-, e⟩ | ⟨-, e⟩ | ⟨-, e⟩ | ⟨-, e⟩ | ⟨-, e⟩ <;> rw [e]
  · exact h
  · rcases runCheck_cases p id s with ⟨-, e⟩ | ⟨-, e⟩ <;> rw [e]
    · exact h
    · exact lumIsFmt_raise _
  · exact (h.decodePixel _).advance (h.decodePixel s.idx.toNat)
  · exact LumIsFmt.advance (s := buildEntry _ _ s) h h
  · unfold startKernel
    split
    · rcases askRandomSource_cases p (fun s₁ => Machine.advance s₁.lat.n.toNat
        (enterPhase .encode) (Machine.kernelPixel p s₁.lat.m s₁.idx.toNat s₁)) s with
        ⟨-, e⟩ | ⟨-, e⟩ <;> rw [e]
      · exact LumIsFmt.advance_kernelPixel (s := countAsk s) h
      · exact lumIsFmt_raise _
    · exact h.advance_kernelPixel
  · exact (h.encodePixel _).advance lumIsFmt_endSuccess

/-! ### The end of a command forgets LUM (R38) -/

theorem lumIsFmt_resumeKernel : LumIsFmt p (resumeKernel p s) := by
  unfold resumeKernel startKernel
  split
  · rcases askRandomSource_cases p (fun s₁ => kernelAndEncode p (kernelPixel p s₁.lat.m) s₁) s with
      ⟨-, e⟩ | ⟨-, e⟩ <;> rw [e]
    · exact lumIsFmt_endSuccess
    · exact lumIsFmt_raise _
  · exact lumIsFmt_endSuccess

theorem lumIsFmt_resumeDecode : LumIsFmt p (resumeDecode p s) := by
  unfold resumeDecode
  dsimp only
  split <;> exact lumIsFmt_resumeKernel

theorem lumIsFmt_runCheck : LumIsFmt p (runCheck p (resumeDecode p) s) := by
  rcases runCheck_cases p (resumeDecode p) s with ⟨-, e⟩ | ⟨-, e⟩ <;> rw [e]
  · exact lumIsFmt_resumeDecode
  · exact lumIsFmt_raise _

theorem LumIsFmt.resume (h : LumIsFmt p s) : LumIsFmt p (resume p s) := by
  rcases resume_cases p s with
    ⟨-, e⟩ | ⟨-, e⟩ | ⟨-, e⟩ | ⟨-, e⟩ | ⟨-, e⟩ | ⟨-, e⟩ <;> rw [e]
  · exact h
  · exact lumIsFmt_runCheck
  · exact lumIsFmt_resumeDecode
  · exact lumIsFmt_resumeKernel
  · exact lumIsFmt_resumeKernel
  · exact lumIsFmt_endSuccess

/-! ### Every step -/

theorem LumIsFmt.blockRun {t : State} (h : LumIsFmt chip s) (e : blockRun s = .next t) :
    LumIsFmt chip t := by
  rcases blockRun_cases e with ⟨-, e⟩ | ⟨-, e⟩
  · rw [exec_eq_run] at e
    cases e
    exact lumIsFmt_runCheck
  · cases e
    exact h.resume

/-- A register write leaves LUM alone, a START too. -/
theorem writeRegister_lum (r : Nat) (v : Word) (s : State) : (writeRegister r v s).lum = s.lum := by
  unfold writeRegister
  split
  · unfold writeCtrl
    split <;> rfl
  all_goals rfl

theorem readOutByte_lum (a : Nat) (s : State) : (readOutByte p a s).lum = s.lum := by
  unfold readOutByte
  split <;> rfl

theorem LumIsFmt.hostMove {m : HostMove} {t : State} (h : LumIsFmt p s)
    (e : hostMove p m s = .next t) : LumIsFmt p t := by
  rcases hostMove_cases e with ⟨r, v, -, e⟩ | ⟨r, -, e⟩ | ⟨a, v, -, ha, e⟩ | ⟨a, -, -, e⟩ |
    ⟨a, v, -, ha, e⟩ | ⟨a, -, -, e⟩ | ⟨-, e⟩ | ⟨-, e⟩ | ⟨-, e⟩ | ⟨-, e⟩ <;> cases e
  · unfold LumIsFmt; rw [writeRegister_lum]; exact h
  · exact h
  · exact h
  · exact h
  · exact h
  · unfold LumIsFmt; rw [readOutByte_lum]; exact h
  · exact lumIsFmt_nil rfl
  · exact h
  · exact h.seqStep

/-- Settles O30. -/
theorem luminanceStoreHoldsFormatValues : Obligations.LuminanceStoreHoldsFormatValues := by
  intro s t hs h
  have hpop : ∀ rest, LumIsFmt chip { s with host := rest } := fun _ => hs
  rcases step_cases h with ⟨-, e⟩ | ⟨rest, -, e⟩ | ⟨m, rest, -, -, e⟩
  · exact hs.blockRun e
  · exact (hpop rest).blockRun e
  · exact (hpop rest).hostMove e

end Sys2Proof.Machine
